-- ==== Sys2Proof/Word.lean ====
section
/-! DEFINITION. The value types of the MIDI codec: bytes, 7-bit data, channels and times
(spec/00_scope.md R10, R11). -/

namespace Sys2Proof

/-- A byte on the wire, `BYTEW` = 8 (R10). -/
abbrev Byte := BitVec 8

/-- A data-byte value, `DATAW` = 7 (R10, R63). -/
abbrev Data7 := BitVec 7

/-- A channel number, `CHW` = 4 (R10, R75). -/
abbrev Channel := BitVec 4

/-- The system time input `now`: `TSW` is open, a natural number as R10 recommends (log 6). -/
abbrev Time := Nat

/-- A hardware time sample: `HWW` is open, stored verbatim and never computed with
(R10, R215; log 6). -/
abbrev HwTime := Nat

end Sys2Proof
end

