-- ==== Sys2Proof/Syntax.lean ====
section
/-! DEFINITION. The instructions: one constructor per row of spec/opcode_table.json.
An instruction is one received byte as the decoder meets it, since one step of the receive side is
one `feed` of one byte (spec/00_scope.md R7, R8; spec/40_decoder_step.md R90; log 1). The data bytes
of a message are `data` instructions of their own (row DATA, R95). -/

namespace Sys2Proof

/-- The 25 rows of the opcode table (R84). -/
inductive Instr where
  /-- 0x8n NOTE_OFF (R116). -/
  | noteOff (channel : Channel)
  /-- 0x9n NOTE_ON (R117). -/
  | noteOn (channel : Channel)
  /-- 0xAn POLY_PRESSURE (R118). -/
  | polyPressure (channel : Channel)
  /-- 0xBn CONTROL_CHANGE (R119): data byte 1 is not in 120..127, or has not arrived. -/
  | controlChange (channel : Channel)
  /-- 0xBn CHANNEL_MODE (R123, R84 `match2`): the same status byte with data byte 1 in 120..127.
  The controller is read ahead to name the row; it stays in the stream (log 2). -/
  | channelMode (channel : Channel) (controller : Data7)
  /-- 0xCn PROGRAM_CHANGE (R120). -/
  | programChange (channel : Channel)
  /-- 0xDn CHANNEL_PRESSURE (R121). -/
  | channelPressure (channel : Channel)
  /-- 0xEn PITCH_BEND (R122). -/
  | pitchBend (channel : Channel)
  /-- 0xF0 SYSEX_START (R130). -/
  | sysexStart
  /-- 0xF1 MTC_QUARTER_FRAME (R138). -/
  | mtcQuarterFrame
  /-- 0xF2 SONG_POSITION (R139). -/
  | songPosition
  /-- 0xF3 SONG_SELECT (R140). -/
  | songSelect
  /-- 0xF4 UNDEF_F4 (R141). -/
  | undefF4
  /-- 0xF5 UNDEF_F5 (R142). -/
  | undefF5
  /-- 0xF6 TUNE_REQUEST (R143). -/
  | tuneRequest
  /-- 0xF7 EOX (R133, R134). -/
  | eox
  /-- 0xF8 CLOCK (R156). -/
  | clock
  /-- 0xF9 UNDEF_F9 (R157). -/
  | undefF9
  /-- 0xFA START (R158). -/
  | start
  /-- 0xFB CONTINUE (R159). -/
  | continueMsg
  /-- 0xFC STOP (R160). -/
  | stop
  /-- 0xFD UNDEF_FD (R161). -/
  | undefFD
  /-- 0xFE ACTIVE_SENSING (R162). -/
  | activeSensing
  /-- 0xFF RESET (R163). -/
  | reset
  /-- 0x00..0x7F DATA (R95). -/
  | data (value : Data7)
deriving DecidableEq, Repr

end Sys2Proof
end

