-- ==== Sys2Proof/WellFormed.lean ====
section
/-! DEFINITION. Which terms of `Instr` stand for words of the stream. -/

namespace Sys2Proof

/-- CHANNEL_MODE requires a controller in 120..127 (spec/30_encoding.md R77: `d1[6:3] = 0b1111`);
every other operand is legal at every value of its width (R75). -/
def Instr.wellFormed : Instr → Bool
  | .channelMode _ controller => controller.extractLsb' 3 4 == 0b1111#4
  | .noteOff _ => true
  | .noteOn _ => true
  | .polyPressure _ => true
  | .controlChange _ => true
  | .programChange _ => true
  | .channelPressure _ => true
  | .pitchBend _ => true
  | .sysexStart => true
  | .mtcQuarterFrame => true
  | .songPosition => true
  | .songSelect => true
  | .undefF4 => true
  | .undefF5 => true
  | .tuneRequest => true
  | .eox => true
  | .clock => true
  | .undefF9 => true
  | .start => true
  | .continueMsg => true
  | .stop => true
  | .undefFD => true
  | .activeSensing => true
  | .reset => true
  | .data _ => true

end Sys2Proof
end

