-- ==== Sys2Proof/Decode.lean ====
section
/-! DEFINITION. Bytes to instructions and back (spec/30_encoding.md R63 to R69, R77, R84).
The decoder is total on any bytes: it accepts all 256 byte values (spec/20_memory.md R46) and
rejects only the end of the stream, by name. -/

namespace Sys2Proof

/-- Why no instruction is read. -/
inductive DecodeReject where
  /-- There is no byte: the stream has ended (R46: the block never asks for a byte). -/
  | endOfStream
deriving DecidableEq, Repr

/-- What the decoder reads at the head of a stream. -/
inductive Decoded where
  /-- An instruction, and the bytes after the one it takes. -/
  | instr (i : Instr) (rest : List Byte)
  /-- No instruction, by name. -/
  | reject (why : DecodeReject)
deriving DecidableEq, Repr

/-- A channel status byte: kind nibble in bits 7 to 4, channel in bits 3 to 0 (R65). -/
def statusByte (kind channel : BitVec 4) : Byte := kind ++ channel

/-- `status[7:4]`, the kind nibble (R65). -/
def kindNibble (b : Byte) : BitVec 4 := b.extractLsb' 4 4

/-- `status[3:0]`, the channel (R65, R75). -/
def channelOf (b : Byte) : Channel := b.extractLsb' 0 4

/-- `b[6:0]`, the value of a data byte (R63, R75). -/
def dataOf (b : Byte) : Data7 := b.extractLsb' 0 7

/-- The wire byte of a data value: bit 7 clear (R63). -/
def dataByte (v : Data7) : Byte := 0#1 ++ v

/-- Bit 7 set (R63). -/
def isStatus (b : Byte) : Bool := b.getLsbD 7

/-- A byte of the System Realtime range [0xF8, 0xFF] (R64). -/
def isRealtime (b : Byte) : Bool := decide (0xF8#8 ≤ b)

/-- The Channel Mode test `d1[6:3] = 0b1111` on a wire byte: `match2`, `mask2` of the table
(R77, R84). -/
def isModeController (b : Byte) : Bool := b &&& 0xF8#8 == 0x78#8

/-- The next byte of the stream that is no realtime byte: a message is decoded as if the realtime
bytes in it were absent (R74). -/
def nextOfMessage : List Byte → Option Byte
  | [] => none
  | b :: rest => if isRealtime b then nextOfMessage rest else some b

/-- The row of a status byte 0xBn: CHANNEL_MODE when data byte 1 is in 120..127, which takes
precedence over CONTROL_CHANGE (R84). The two rows do the same at this byte (R77; log 2). -/
def decodeControl (channel : Channel) (next : Option Byte) : Instr :=
  match next with
  | some d1 => if isModeController d1 then .channelMode channel (dataOf d1) else .controlChange channel
  | none => .controlChange channel

/-- Status bytes 0x80 to 0xEF by kind nibble (R66). -/
def decodeChannel (b : Byte) (next : Option Byte) : Instr :=
  if kindNibble b = 0x8#4 then .noteOff (channelOf b)
  else if kindNibble b = 0x9#4 then .noteOn (channelOf b)
  else if kindNibble b = 0xA#4 then .polyPressure (channelOf b)
  else if kindNibble b = 0xB#4 then decodeControl (channelOf b) next
  else if kindNibble b = 0xC#4 then .programChange (channelOf b)
  else if kindNibble b = 0xD#4 then .channelPressure (channelOf b)
  else .pitchBend (channelOf b)

/-- Status bytes 0xF0 to 0xF7 (R68). -/
def decodeSystemCommon (b : Byte) : Instr :=
  if b = 0xF0#8 then .sysexStart
  else if b = 0xF1#8 then .mtcQuarterFrame
  else if b = 0xF2#8 then .songPosition
  else if b = 0xF3#8 then .songSelect
  else if b = 0xF4#8 then .undefF4
  else if b = 0xF5#8 then .undefF5
  else if b = 0xF6#8 then .tuneRequest
  else .eox

/-- Status bytes 0xF8 to 0xFF (R69). -/
def decodeRealtime (b : Byte) : Instr :=
  if b = 0xF8#8 then .clock
  else if b = 0xF9#8 then .undefF9
  else if b = 0xFA#8 then .start
  else if b = 0xFB#8 then .continueMsg
  else if b = 0xFC#8 then .stop
  else if b = 0xFD#8 then .undefFD
  else if b = 0xFE#8 then .activeSensing
  else .reset

/-- The instruction of a byte, with the message's next byte if it is there. The groups are tested
in the order of R64 and R91: realtime, then the other status bytes, then data. -/
def decodeByte (b : Byte) (next : Option Byte) : Instr :=
  if isRealtime b then decodeRealtime b
  else if 0xF0#8 ≤ b then decodeSystemCommon b
  else if isStatus b then decodeChannel b next
  else .data (dataOf b)

/-- The instruction at the head of a stream, and the bytes after the one it takes. -/
def decode : List Byte → Decoded
  | [] => .reject .endOfStream
  | b :: rest => .instr (decodeByte b (nextOfMessage rest)) rest

/-- The words of an instruction: its own byte, and for CHANNEL_MODE the data byte 1 that makes the
row (R66 to R69, R84). -/
def encode : Instr → List Byte
  | .noteOff c => [statusByte 0x8#4 c]
  | .noteOn c => [statusByte 0x9#4 c]
  | .polyPressure c => [statusByte 0xA#4 c]
  | .controlChange c => [statusByte 0xB#4 c]
  | .channelMode c controller => [statusByte 0xB#4 c, dataByte controller]
  | .programChange c => [statusByte 0xC#4 c]
  | .channelPressure c => [statusByte 0xD#4 c]
  | .pitchBend c => [statusByte 0xE#4 c]
  | .sysexStart => [0xF0#8]
  | .mtcQuarterFrame => [0xF1#8]
  | .songPosition => [0xF2#8]
  | .songSelect => [0xF3#8]
  | .undefF4 => [0xF4#8]
  | .undefF5 => [0xF5#8]
  | .tuneRequest => [0xF6#8]
  | .eox => [0xF7#8]
  | .clock => [0xF8#8]
  | .undefF9 => [0xF9#8]
  | .start => [0xFA#8]
  | .continueMsg => [0xFB#8]
  | .stop => [0xFC#8]
  | .undefFD => [0xFD#8]
  | .activeSensing => [0xFE#8]
  | .reset => [0xFF#8]
  | .data v => [dataByte v]

/-- The mask and the match of an instruction's row on the first byte (R84; opcode_table.json). -/
def tableRow : Instr → Byte × Byte
  | .noteOff _ => (0xF0#8, 0x80#8)
  | .noteOn _ => (0xF0#8, 0x90#8)
  | .polyPressure _ => (0xF0#8, 0xA0#8)
  | .controlChange _ => (0xF0#8, 0xB0#8)
  | .channelMode _ _ => (0xF0#8, 0xB0#8)
  | .programChange _ => (0xF0#8, 0xC0#8)
  | .channelPressure _ => (0xF0#8, 0xD0#8)
  | .pitchBend _ => (0xF0#8, 0xE0#8)
  | .sysexStart => (0xFF#8, 0xF0#8)
  | .mtcQuarterFrame => (0xFF#8, 0xF1#8)
  | .songPosition => (0xFF#8, 0xF2#8)
  | .songSelect => (0xFF#8, 0xF3#8)
  | .undefF4 => (0xFF#8, 0xF4#8)
  | .undefF5 => (0xFF#8, 0xF5#8)
  | .tuneRequest => (0xFF#8, 0xF6#8)
  | .eox => (0xFF#8, 0xF7#8)
  | .clock => (0xFF#8, 0xF8#8)
  | .undefF9 => (0xFF#8, 0xF9#8)
  | .start => (0xFF#8, 0xFA#8)
  | .continueMsg => (0xFF#8, 0xFB#8)
  | .stop => (0xFF#8, 0xFC#8)
  | .undefFD => (0xFF#8, 0xFD#8)
  | .activeSensing => (0xFF#8, 0xFE#8)
  | .reset => (0xFF#8, 0xFF#8)
  | .data _ => (0x80#8, 0x00#8)

/-- `NeedOf(s)`, the fixed data-byte count of a status (spec/40_decoder_step.md R100); none for the
bytes on which R100 does not define it. -/
def needOf (s : Byte) : Option Nat :=
  if kindNibble s = 0x8#4 then some 2
  else if kindNibble s = 0x9#4 then some 2
  else if kindNibble s = 0xA#4 then some 2
  else if kindNibble s = 0xB#4 then some 2
  else if kindNibble s = 0xC#4 then some 1
  else if kindNibble s = 0xD#4 then some 1
  else if kindNibble s = 0xE#4 then some 2
  else if s = 0xF1#8 then some 1
  else if s = 0xF2#8 then some 2
  else if s = 0xF3#8 then some 1
  else if s = 0xF6#8 then some 0
  else none

/-- The bytes of a table word: bit 0 is the least significant bit of the first byte, the next byte's
bits count on from it; the bits above `nbits` are 0. As many bytes as the table gives the row, and
at least the whole message of the first byte's format, its data bytes zero (R67; log 13). -/
def bytesOfTableWord (nbits w : Nat) : List Byte :=
  let first := BitVec.ofNat 8 (w % 2 ^ nbits)
  (List.range (max ((nbits + 7) / 8) (1 + (needOf first).getD 0))).map
    fun k => BitVec.ofNat 8 ((w % 2 ^ nbits) >>> (8 * k))

/-- The instruction the decoder reads from a table word. -/
def decodeTableWord (nbits w : Nat) : Option Instr :=
  match decode (bytesOfTableWord nbits w) with
  | .instr i _ => some i
  | .reject _ => none

end Sys2Proof
end

