-- ==== Sys2Proof/Config.lean ====
section
/-! DEFINITION. The configuration record the host presents with every `feed`
(spec/10_state.md R29 to R34) and the fixed parameters of spec/00_scope.md R10.
The spec leaves no value of a step open, so there is no free-value constant here. -/

namespace Sys2Proof

/-- `cfg`: owned by the caller, read-only by the core (R29). Every value of each field is legal. -/
structure Cfg where
  /-- R30: annotate a Note-On with velocity 0 as a Note-Off alias. -/
  velocityZeroIsNoteOff : Bool
  /-- R31: controllers 91 and 93 carry the RP-023 names. -/
  cc9193Renamed : Bool
  /-- R32: the greatest number of payload bytes one SysEx may hold. -/
  sysexMaxPayloadBytes : Nat
  /-- R33: an unmatched EOX also yields a zero-length SysEx. -/
  unmatchedEoxAsEmptySysex : Bool
deriving DecidableEq, Repr

/-- `NCH`, the number of channels (R10). -/
def Config.numChannels : Nat := 16

/-- `IDMAX`, the greatest manufacturer-id length (R10). -/
def Config.maxIdLength : Nat := 3

/-- `MAXEV`, the most events one `feed` returns (R10). -/
def Config.maxEvents : Nat := 2

/-- The values the configuration inputs hold before the first `feed` presents its own.
DESIGN CHOICE (log 7): the spec gives none (R43, R265); these are the baseline of
spec/95_test_vectors.md section 0. Unsafe to rely on. -/
def Config.beforeFirstFeed : Cfg :=
  { velocityZeroIsNoteOff := false
    cc9193Renamed := false
    sysexMaxPayloadBytes := 16
    unmatchedEoxAsEmptySysex := false }

end Sys2Proof
end

