-- ==== Sys2Proof/Machine/Message.lean ====
section
/-! DEFINITION. The values that flow through the codec: messages, annotations, error kinds, events
(spec/10_state.md R35 to R41; spec/60_exceptions.md R228). -/

namespace Sys2Proof.Machine

/-- The Channel Voice kinds with their data bytes; `d2` is absent for two of them (R35). -/
inductive Voice (D : Type) where
  | noteOff (d1 d2 : D)
  | noteOn (d1 d2 : D)
  | polyPressure (d1 d2 : D)
  | controlChange (d1 d2 : D)
  | programChange (d1 : D)
  | channelPressure (d1 : D)
  | pitchBend (d1 d2 : D)
deriving DecidableEq, Repr

/-- The System Common kinds with their data bytes (R35). -/
inductive Common (D : Type) where
  | mtcQuarterFrame (d1 : D)
  | songPositionPointer (d1 d2 : D)
  | songSelect (d1 : D)
  | tuneRequest
deriving DecidableEq, Repr

/-- The System Realtime kinds (R35). -/
inductive Realtime where
  | clock
  | start
  | continueMsg
  | stop
  | activeSensing
  | reset
deriving DecidableEq, Repr

/-- A message: a closed choice of five variants (R35, R38). `C` is the type of a channel field and
`D` of a data field: 4 and 7 bits where the decoder builds it (R36), 8 bits each on the encoder's
input port (R191; log 18). -/
inductive Message (C D : Type) where
  | channelVoice (channel : C) (voice : Voice D)
  | channelMode (channel : C) (controller value : D)
  | systemCommon (common : Common D)
  | systemRealtime (kind : Realtime)
  | systemExclusive (manufacturerId payload : List D) (terminated : Bool)
deriving DecidableEq, Repr

/-- A message as the decoder builds it: its fields cannot be out of range (R36, R75). -/
abbrev Msg := Message Channel Data7

/-- A message on the encoder's input port: every field `ENCW` = 8 bits (R10, R191). -/
abbrev PortMsg := Message Byte Byte

/-- The two parameter spaces (R25). -/
inductive Space where
  | rpn
  | nrpn
deriving DecidableEq, Repr

/-- The two halves of a selector (R172). -/
inductive Half where
  | msb
  | lsb
deriving DecidableEq, Repr

/-- A selected parameter `(space, msb, lsb)` (R26, R40). -/
structure Param where
  space : Space
  msb : Data7
  lsb : Data7
deriving DecidableEq, Repr

/-- The Universal SysEx annotation: raw numbers, no label (R40, R178). -/
structure Universal where
  univId : Data7
  subId1 : Option Data7
  subId2 : Option Data7
deriving DecidableEq, Repr

/-- The annotation the classifier attaches to a message (R40). -/
structure Ann where
  aliasNoteOff : Bool
  ccRenamed : Bool
  param : Option Param
  universal : Option Universal
deriving DecidableEq, Repr

/-- The all-default annotation (R40). -/
def Ann.plain : Ann :=
  { aliasNoteOff := false, ccRenamed := false, param := none, universal := none }

/-- The error kinds (R227, R228). -/
inductive ErrorKind where
  | orphanDataByte
  | unmatchedEox
  | implicitSysExTermination
  | sysExTooLarge
  | valueOutOfRange
  | undefinedStatus
  | truncatedMessage
deriving DecidableEq, Repr

/-- The code of an error kind, 0 for none (R228). -/
def ErrorKind.code : Option ErrorKind → Nat
  | none => 0
  | some .orphanDataByte => 1
  | some .unmatchedEox => 2
  | some .implicitSysExTermination => 3
  | some .sysExTooLarge => 4
  | some .valueOutOfRange => 5
  | some .undefinedStatus => 6
  | some .truncatedMessage => 7

/-- A delivered message: the `TimestampedMessage` with its annotation (R39, R41). -/
structure Delivered where
  msg : Msg
  ann : Ann
  systemTime : Time
  hardwareTime : Option HwTime
deriving DecidableEq, Repr

/-- An event: an optional message, an optional error, and the `now` of the step that produced it
(R41: `at`). -/
structure Event where
  msg : Option Delivered
  err : Option ErrorKind
  atTime : Time
deriving DecidableEq, Repr

/-- The result of one `encode` call (spec/45_encoder.md R190). -/
inductive EncodeResult where
  | ok (bytes : List Byte)
  | err (e : ErrorKind)
deriving DecidableEq, Repr

end Sys2Proof.Machine
end

