-- ==== Sys2Proof/Machine/State.lean ====
section
/-! DEFINITION. The state of the codec as plain data (spec/10_state.md), the host's calls, the reasons
a step can stop, and the state after reset. -/

namespace Sys2Proof.Machine

/-- `Partial`: a channel or System Common message awaiting data bytes (R19). -/
structure Partial where
  /-- The status byte the message is assembled under. -/
  status : Byte
  /-- `need`, equal to `NeedOf(status)` in every reachable state. -/
  need : Nat
  /-- `have`: the number of data bytes collected. -/
  collected : Nat
  /-- The first data byte; absent while `have = 0` (spec/93 U16; log 12). -/
  d0 : Option Data7
  /-- The time latch (R21). -/
  t0 : Time
  h0 : Option HwTime
deriving DecidableEq, Repr

/-- `SysExAcc`: a SysEx in progress, with the accumulator (R20, R47). -/
structure SysExAcc where
  id : List Data7
  payload : List Data7
  /-- Set when the payload cap was exceeded and the partial message discarded. -/
  ovf : Bool
  /-- The time latch (R21). -/
  t0 : Time
  h0 : Option HwTime
deriving DecidableEq, Repr

/-- `DS.pending`, one of three shapes (R17); its tag is `DS.mode` (R18). -/
inductive Pending where
  | idle
  | await (p : Partial)
  | inSysEx (a : SysExAcc)
deriving DecidableEq, Repr

/-- `DS.mode` (R18): not stored, the tag of `pending`. -/
inductive Mode where
  | idle
  | awaitingDataByte
  | inSysEx
deriving DecidableEq, Repr

/-- `DS` (R15). -/
structure DecoderState where
  runningStatus : Option Byte
  pending : Pending
deriving DecidableEq, Repr

/-- `ChanSel`, the selector state of one channel (R25); `lastSel` is None, RPN or NRPN. -/
structure ChanSel where
  rpnMsb : Option Data7
  rpnLsb : Option Data7
  nrpnMsb : Option Data7
  nrpnLsb : Option Data7
  lastSel : Option Space
deriving DecidableEq, Repr

/-- `CS` (R25): one record per channel. -/
structure ClassifierState where
  ch : Vector ChanSel 16
deriving DecidableEq, Repr

/-- A stream instance: one decoder state and one classifier state (R15). -/
structure Instance where
  ds : DecoderState
  cs : ClassifierState
deriving DecidableEq, Repr

/-- A stream: its instance while one exists (R43, R44), and the events delivered to its consumer so
far, oldest first (R92, R272; log 5). The events are the consumer's and outlive the instance. -/
structure Stream where
  inst : Option Instance
  events : List Event
deriving DecidableEq, Repr

/-- What the host presents beside the byte of a `feed`: which stream (log 4), the configuration (R34)
and the two time inputs (R216). -/
structure Sample where
  stream : Nat
  cfg : Cfg
  now : Time
  hw : Option HwTime
deriving DecidableEq, Repr

/-- The host's calls other than `feed` (spec/70_reset_and_hazards.md R261 to R264; R190). -/
inductive Command where
  | openStream
  | resync (stream : Nat)
  | close (stream : Nat)
  | encode (m : PortMsg)
deriving DecidableEq, Repr

/-- One call of the host. -/
inductive Call where
  | feed (sample : Sample) (byte : Byte)
  | command (c : Command)
deriving DecidableEq, Repr

/-- The block and its surroundings.

* `streams`: the NSTREAM stream instances (R249; log 4);
* `port`: the sample that came with the byte being served (R34, R216; log 7);
* `calls`: the host's calls still to come, in order (log 3);
* `transmitted`: the results of the `encode` calls so far, oldest first (log 15). -/
structure State where
  streams : List Stream
  port : Sample
  calls : List Call
  transmitted : List EncodeResult
deriving DecidableEq, Repr

/-- Why the machine stops. The decoder itself never faults (spec/40_decoder_step.md R101). -/
inductive Fault where
  /-- Raised by a `feed`, `resync` or `close` on a stream without an instance: "the model gives such a
  call no step" (R277; spec/93 U14; log 8). Safe. -/
  | noInstance
  /-- Raised by DATA when `pending` or `running_status` holds a status for which R99 or R100 is not
  defined. No run reaches such a state: `State.ok` excludes it and every step keeps `State.ok`
  (log 9). Safe. -/
  | undefinedLatch
deriving DecidableEq, Repr

/-- Why the model gives an instruction no meaning. -/
inductive Refusal where
  /-- Raised by `exec` for an instruction without a meaning: none is left. Safe. -/
  | notModelled (mnemonic : String)
deriving DecidableEq, Repr

/-- `DS` after `open` and `resync`: "empty" (R43, R261). -/
def DecoderState.fresh : DecoderState := { runningStatus := none, pending := .idle }

/-- A channel's selectors after `open`, `resync` and a channel reset (R43, R177). -/
def ChanSel.empty : ChanSel :=
  { rpnMsb := none, rpnLsb := none, nrpnMsb := none, nrpnLsb := none, lastSel := none }

/-- `CS` after `open` and `resync` (R43, R261). -/
def ClassifierState.fresh : ClassifierState := { ch := Vector.replicate 16 ChanSel.empty }

/-- The instance `open` creates (R43, R261). -/
def Instance.fresh : Instance := { ds := .fresh, cs := .fresh }

/-- The inputs before the first call: DESIGN CHOICE (log 7), no rule of the spec. -/
def Sample.beforeFirstFeed : Sample :=
  { stream := 0, cfg := Config.beforeFirstFeed, now := 0, hw := none }

/-- After reset, which is `open` (R260): one stream instance, fresh, nothing delivered; no call is
pending and nothing was transmitted. -/
def State.reset : State :=
  { streams := [{ inst := some .fresh, events := [] }]
    port := .beforeFirstFeed
    calls := []
    transmitted := [] }

end Sys2Proof.Machine
end

