-- ==== Sys2Proof/Machine/Operands.lean ====
section
/-! DEFINITION. Operand assembly: the message of a completed status and its data bytes, the 14-bit
views, and the widening of a message to the encoder's port
(spec/30_encoding.md R75 to R77; spec/40_decoder_step.md R99). -/

namespace Sys2Proof.Machine

/-- `MkMsg(status, d1, d2)` (R99); none where R99 does not define it. -/
def mkMsg (s : Byte) (d1 : Data7) (d2 : Option Data7) : Option Msg :=
  if kindNibble s = 0x8#4 then d2.map fun v => .channelVoice (channelOf s) (.noteOff d1 v)
  else if kindNibble s = 0x9#4 then d2.map fun v => .channelVoice (channelOf s) (.noteOn d1 v)
  else if kindNibble s = 0xA#4 then d2.map fun v => .channelVoice (channelOf s) (.polyPressure d1 v)
  else if kindNibble s = 0xB#4 then
    d2.map fun v =>
      if 120#7 ≤ d1 then .channelMode (channelOf s) d1 v
      else .channelVoice (channelOf s) (.controlChange d1 v)
  else if kindNibble s = 0xC#4 then some (.channelVoice (channelOf s) (.programChange d1))
  else if kindNibble s = 0xD#4 then some (.channelVoice (channelOf s) (.channelPressure d1))
  else if kindNibble s = 0xE#4 then d2.map fun v => .channelVoice (channelOf s) (.pitchBend d1 v)
  else if s = 0xF1#8 then some (.systemCommon (.mtcQuarterFrame d1))
  else if s = 0xF2#8 then d2.map fun v => .systemCommon (.songPositionPointer d1 v)
  else if s = 0xF3#8 then some (.systemCommon (.songSelect d1))
  else none

/-- `value14 = d1 | (d2 << 7)`, exact (R76): Pitch Bend and Song Position Pointer. -/
def value14 (lsb msb : Data7) : Nat := lsb.toNat ||| (msb.toNat <<< 7)

/-- The signed Pitch Bend offset from the centre 0x2000 (R76). -/
def bend (lsb msb : Data7) : Int := (value14 lsb msb : Int) - 0x2000

/-- The inverse of `value14` for a producer: `d1 = value14 & 0x7F`, `d2 = value14 >> 7` (R76). -/
def splitValue14 (v : Nat) : Data7 × Data7 := (BitVec.ofNat 7 (v &&& 0x7F), BitVec.ofNat 7 (v >>> 7))

/-- The data bytes of a signed offset; an offset outside [-8192, 8191] has no encoding (R201). -/
def splitBend (offset : Int) : Option (Data7 × Data7) :=
  if -8192 ≤ offset ∧ offset ≤ 8191 then some (splitValue14 (offset + 0x2000).toNat) else none

/-- The consumer's 14-bit view of a message: Pitch Bend and Song Position Pointer only (R76). -/
def Message.value14 : Msg → Option Nat
  | .channelVoice _ (.pitchBend d1 d2) => some (Sys2Proof.Machine.value14 d1 d2)
  | .systemCommon (.songPositionPointer d1 d2) => some (Sys2Proof.Machine.value14 d1 d2)
  | _ => none

/-- The data fields of a voice at the port's width. -/
def Voice.widen : Voice Data7 → Voice Byte
  | .noteOff d1 d2 => .noteOff (dataByte d1) (dataByte d2)
  | .noteOn d1 d2 => .noteOn (dataByte d1) (dataByte d2)
  | .polyPressure d1 d2 => .polyPressure (dataByte d1) (dataByte d2)
  | .controlChange d1 d2 => .controlChange (dataByte d1) (dataByte d2)
  | .programChange d1 => .programChange (dataByte d1)
  | .channelPressure d1 => .channelPressure (dataByte d1)
  | .pitchBend d1 d2 => .pitchBend (dataByte d1) (dataByte d2)

/-- The data fields of a System Common message at the port's width. -/
def Common.widen : Common Data7 → Common Byte
  | .mtcQuarterFrame d1 => .mtcQuarterFrame (dataByte d1)
  | .songPositionPointer d1 d2 => .songPositionPointer (dataByte d1) (dataByte d2)
  | .songSelect d1 => .songSelect (dataByte d1)
  | .tuneRequest => .tuneRequest

/-- A decoded message as an operand of the encoder: the same fields at the port's 8 bits
(R191; log 18). -/
def Message.widen : Msg → PortMsg
  | .channelVoice c v => .channelVoice (statusByte 0#4 c) v.widen
  | .channelMode c n v => .channelMode (statusByte 0#4 c) (dataByte n) (dataByte v)
  | .systemCommon k => .systemCommon k.widen
  | .systemRealtime k => .systemRealtime k
  | .systemExclusive id payload terminated =>
    .systemExclusive (id.map dataByte) (payload.map dataByte) terminated

end Sys2Proof.Machine
end

