-- ==== Sys2Proof/Machine/Flags.lean ====
section
/-! DEFINITION. The one-bit conditions the rules test (spec/10_state.md R24; spec/42 R132) and the
mode, all derived from the state. There are no arithmetic condition codes. -/

namespace Sys2Proof.Machine

/-- `DS.mode`, the tag of `DS.pending` (R18). -/
def DecoderState.mode (ds : DecoderState) : Mode :=
  match ds.pending with
  | .idle => .idle
  | .await _ => .awaitingDataByte
  | .inSysEx _ => .inSysEx

/-- "Running status present" (R24). -/
def DecoderState.runningStatusPresent (ds : DecoderState) : Bool := ds.runningStatus.isSome

/-- `IdNeed(id)` (R132, R71): 3 when the first id byte is 0x00, else 1. -/
def idNeed : List Data7 → Nat
  | [] => 1
  | b :: _ => if b = 0x00#7 then 3 else 1

/-- "Id complete": `len(id) = IdNeed(id)` (R24, R132). -/
def idComplete (id : List Data7) : Bool := id.length == idNeed id

/-- The form of the accumulator that every rule keeps (R20): the id is no longer than it needs to be,
a payload follows a complete id only, and an overflowed SysEx holds nothing. -/
def SysExAcc.wf (a : SysExAcc) : Bool :=
  decide (a.id.length ≤ idNeed a.id) &&
    (a.payload.isEmpty || idComplete a.id) &&
    (!a.ovf || (a.id.isEmpty && a.payload.isEmpty))

end Sys2Proof.Machine
end

