-- ==== Sys2Proof/Machine/Classifier.lean ====
section
/-! DEFINITION. The semantic classifier (spec/44_classifier.md). It runs on every message inside the
step that emits it, never changes the message and cannot fail (R167, R169). -/

namespace Sys2Proof.Machine

/-- `CS.ch[c]`. -/
def ClassifierState.sel (cs : ClassifierState) (c : Channel) : ChanSel := cs.ch[c.toNat]'c.isLt

/-- `CS.ch[c] <- x`; the other 15 channels are untouched. -/
def ClassifierState.setSel (cs : ClassifierState) (c : Channel) (x : ChanSel) : ClassifierState :=
  { ch := cs.ch.set c.toNat x c.isLt }

/-- One half of one pair takes the value, and `last_sel` names the pair (R173). -/
def ChanSel.write (x : ChanSel) (space : Space) (half : Half) (v : Data7) : ChanSel :=
  match space, half with
  | .rpn, .msb => { x with rpnMsb := some v, lastSel := some .rpn }
  | .rpn, .lsb => { x with rpnLsb := some v, lastSel := some .rpn }
  | .nrpn, .msb => { x with nrpnMsb := some v, lastSel := some .nrpn }
  | .nrpn, .lsb => { x with nrpnLsb := some v, lastSel := some .nrpn }

/-- `NullCheck` on the written pair: (127, 127) clears both halves; `last_sel` stays (R174). -/
def ChanSel.nullCheck (x : ChanSel) (space : Space) : ChanSel :=
  match space with
  | .rpn =>
    if x.rpnMsb = some 127#7 ∧ x.rpnLsb = some 127#7 then { x with rpnMsb := none, rpnLsb := none } else x
  | .nrpn =>
    if x.nrpnMsb = some 127#7 ∧ x.nrpnLsb = some 127#7 then { x with nrpnMsb := none, nrpnLsb := none } else x

/-- `SelectorWrite(ch, space, half, v)` (R173). -/
def selectorWrite (cs : ClassifierState) (c : Channel) (space : Space) (half : Half) (v : Data7) :
    ClassifierState :=
  cs.setSel c (((cs.sel c).write space half v).nullCheck space)

/-- `ChannelReset(ch)` (R177). -/
def channelReset (cs : ClassifierState) (c : Channel) : ClassifierState := cs.setSel c .empty

/-- The active parameter of one channel's selectors (R26). -/
def ChanSel.active (x : ChanSel) : Option Param :=
  match x.lastSel with
  | none => none
  | some .rpn =>
    match x.rpnMsb, x.rpnLsb with
    | some m, some l => some { space := .rpn, msb := m, lsb := l }
    | _, _ => none
  | some .nrpn =>
    match x.nrpnMsb, x.nrpnLsb with
    | some m, some l => some { space := .nrpn, msb := m, lsb := l }
    | _, _ => none

/-- ME's `rpn_selected`: the pair when both halves are present (R25). -/
def ChanSel.rpnSelected (x : ChanSel) : Option (Data7 × Data7) :=
  match x.rpnMsb, x.rpnLsb with
  | some m, some l => some (m, l)
  | _, _ => none

/-- ME's `nrpn_selected` (R25). -/
def ChanSel.nrpnSelected (x : ChanSel) : Option (Data7 × Data7) :=
  match x.nrpnMsb, x.nrpnLsb with
  | some m, some l => some (m, l)
  | _, _ => none

/-- The control-change arm of `Classify` (R168, R171, R172, R176). -/
def classifyControl (cfg : Cfg) (c : Channel) (n v : Data7) (cs : ClassifierState) :
    Ann × ClassifierState :=
  if n = 91#7 ∨ n = 93#7 then ({ Ann.plain with ccRenamed := cfg.cc9193Renamed }, cs)
  else if n = 101#7 then (.plain, selectorWrite cs c .rpn .msb v)
  else if n = 100#7 then (.plain, selectorWrite cs c .rpn .lsb v)
  else if n = 99#7 then (.plain, selectorWrite cs c .nrpn .msb v)
  else if n = 98#7 then (.plain, selectorWrite cs c .nrpn .lsb v)
  else if n = 6#7 ∨ n = 38#7 ∨ n = 96#7 ∨ n = 97#7 then
    ({ Ann.plain with param := (cs.sel c).active }, cs)
  else (.plain, cs)

/-- `Universal(u, payload)` for the ids `[0x7E]` and `[0x7F]`, none for any other (R178): raw bytes, no
real-time label (spec/93 U23). -/
def universalOf (id payload : List Data7) : Option Universal :=
  if id = [0x7E#7] ∨ id = [0x7F#7] then
    id.head?.map fun u => { univId := u, subId1 := payload[0]?, subId2 := payload[1]? }
  else none

/-- `Classify(m)`, whole (R168): the annotation and the new `CS`. -/
def classify (cfg : Cfg) (m : Msg) (cs : ClassifierState) : Ann × ClassifierState :=
  match m with
  | .channelVoice _ (.noteOn _ d2) =>
    ({ Ann.plain with aliasNoteOff := cfg.velocityZeroIsNoteOff && d2 == 0#7 }, cs)
  | .channelVoice c (.controlChange n v) => classifyControl cfg c n v cs
  | .channelVoice _ (.noteOff _ _) => (.plain, cs)
  | .channelVoice _ (.polyPressure _ _) => (.plain, cs)
  | .channelVoice _ (.programChange _) => (.plain, cs)
  | .channelVoice _ (.channelPressure _) => (.plain, cs)
  | .channelVoice _ (.pitchBend _ _) => (.plain, cs)
  | .channelMode c controller _ => (.plain, if controller = 121#7 then channelReset cs c else cs)
  | .systemExclusive id payload _ => ({ Ann.plain with universal := universalOf id payload }, cs)
  | .systemCommon _ => (.plain, cs)
  | .systemRealtime _ => (.plain, cs)

/-- The display name of controllers 91 and 93 that `cc_renamed` selects (R31, R171). The legacy names are
PRESUMED: the spec lists them from general knowledge (spec/93 G8; log 14). -/
def sendLevelName (controller : Data7) (renamed : Bool) : Option String :=
  if controller = 91#7 then some (if renamed then "Reverb Send Level" else "Effects 1 Depth")
  else if controller = 93#7 then some (if renamed then "Chorus Send Level" else "Effects 3 Depth")
  else none

/-- The display name of a data-entry controller (R176). PRESUMED, as above (log 14). -/
def dataEntryName (controller : Data7) : Option String :=
  if controller = 6#7 then some "Data Entry MSB"
  else if controller = 38#7 then some "Data Entry LSB"
  else if controller = 96#7 then some "Data Increment"
  else if controller = 97#7 then some "Data Decrement"
  else none

/-- The display name of a Channel Mode controller (R123). PRESUMED, as above (spec/93 G9; log 14). -/
def channelModeName (controller : Data7) : Option String :=
  if controller = 120#7 then some "All Sound Off"
  else if controller = 121#7 then some "Reset All Controllers"
  else if controller = 122#7 then some "Local Control"
  else if controller = 123#7 then some "All Notes Off"
  else if controller = 124#7 then some "Omni Off"
  else if controller = 125#7 then some "Omni On"
  else if controller = 126#7 then some "Mono On"
  else if controller = 127#7 then some "Poly On"
  else none

end Sys2Proof.Machine
end

