-- ==== Sys2Proof/Machine/Ops.lean ====
section
/-! DEFINITION. The named operations every instruction is written over: event output, error reports, the
SysEx accumulator, the procedures shared by status bytes, and running a handler on the addressed
stream (spec/40_decoder_step.md R92 to R94, R105; spec/20_memory.md R47). -/

namespace Sys2Proof.Machine

/-- The working copy of one step: `DS`, `CS` and the step's events so far (R90, R92). -/
structure Work where
  ds : DecoderState
  cs : ClassifierState
  events : List Event
deriving DecidableEq, Repr

/-- `DS.pending <- p`. -/
def Work.setPending (w : Work) (p : Pending) : Work := { w with ds := { w.ds with pending := p } }

/-- `DS.running_status <- r`. -/
def Work.setRunning (w : Work) (r : Option Byte) : Work := { w with ds := { w.ds with runningStatus := r } }

/-- The one output operation under `emit` and `emit_with` (R92, R105): classify the message, then
append the event with its stamp and this step's `now`. -/
def emitEvent (p : Sample) (m : Msg) (t : Time) (h : Option HwTime) (e : Option ErrorKind) (w : Work) : Work :=
  let r := classify p.cfg m w.cs
  { w with
    cs := r.2
    events := w.events ++
      [{ msg := some { msg := m, ann := r.1, systemTime := t, hardwareTime := h }, err := e, atTime := p.now }] }

/-- `emit(m, t, h)` (R92, R105). -/
def emit (p : Sample) (m : Msg) (t : Time) (h : Option HwTime) (w : Work) : Work :=
  emitEvent p m t h none w

/-- `emit_with(m, t, h, E)` (R92). -/
def emitWith (p : Sample) (m : Msg) (t : Time) (h : Option HwTime) (e : ErrorKind) (w : Work) : Work :=
  emitEvent p m t h (some e) w

/-- `report(E)`: the exception of this hardware (R92, R227). It is not a trap: it saves nothing,
transfers no control and needs no return (R240), so there is no return operation beside it. -/
def report (p : Sample) (e : ErrorKind) (w : Work) : Work :=
  { w with events := w.events ++ [{ msg := none, err := some e, atTime := p.now }] }

/-- `AccAppendId(b)`, allowed only while the id has fewer than `IDMAX` bytes (R47). -/
def SysExAcc.appendId (a : SysExAcc) (b : Data7) : SysExAcc :=
  if a.id.length < Config.maxIdLength then { a with id := a.id ++ [b] } else a

/-- `AccAppendPayload(b)` (R47). -/
def SysExAcc.appendPayload (a : SysExAcc) (b : Data7) : SysExAcc := { a with payload := a.payload ++ [b] }

/-- `AccTake()` (R47). -/
def SysExAcc.take (a : SysExAcc) : List Data7 × List Data7 := (a.id, a.payload)

/-- Discarding an overflowed message: id and payload emptied, the flag set, the latch kept (R47, R136). -/
def SysExAcc.discard (a : SysExAcc) : SysExAcc := { a with id := [], payload := [], ovf := true }

/-- The message of the accumulator's content (R133, R135). -/
def SysExAcc.message (a : SysExAcc) (terminated : Bool) : Msg :=
  .systemExclusive a.take.1 a.take.2 terminated

/-- `ClosePending()` (R93): disposes of the message in progress when a status byte in [0x80, 0xF7]
arrives that does not complete it. -/
def closePending (p : Sample) (w : Work) : Work :=
  match w.ds.pending with
  | .idle => w
  | .await _ => (report p .truncatedMessage w).setPending .idle
  | .inSysEx a =>
    if a.ovf then (report p .implicitSysExTermination w).setPending .idle
    else (emitWith p (a.message false) a.t0 a.h0 .implicitSysExTermination w).setPending .idle

/-- Entering `AwaitingDataByte` at a status byte, with this step's sample latched (R115, R144, R217). -/
def enterAwait (p : Sample) (status : Byte) (need : Nat) (w : Work) : Work :=
  w.setPending (.await { status := status, need := need, collected := 0, d0 := none, t0 := p.now, h0 := p.hw })

/-- A status byte in [0x80, 0xEF]: `ClosePending()`, then `ChannelStatus(b)` (R94, R115). `need` is
`NeedOf(b)`; each meaning passes the count of its kind (R66, R100). -/
def channelStatus (p : Sample) (b : Byte) (need : Nat) (w : Work) : Work :=
  enterAwait p b need ((closePending p w).setRunning (some b))

/-- A status byte in [0xF0, 0xF7] that ends no SysEx: `ClosePending()`, then running status is cleared
(R94, R144); the kind's own part follows. -/
def commonStatus (p : Sample) (w : Work) : Work := (closePending p w).setRunning none

/-- What is at the addressed stream when it has an instance: the working copy of a step, no event yet. -/
def Instance.work (i : Instance) : Work := { ds := i.ds, cs := i.cs, events := [] }

/-- The end of a step: the instance takes the new `DS` and `CS`, and the events are delivered in order
(R92, R101). -/
def Stream.deliver (x : Stream) (w : Work) : Stream :=
  { inst := some { ds := w.ds, cs := w.cs }, events := x.events ++ w.events }

/-- One `feed` on the addressed stream by the handler of its byte (R90). -/
def runFeed (f : Sample → Work → Option Work) (s : State) : Host.Outcome State Fault Refusal :=
  match s.streams[s.port.stream]? with
  | none => .fault .noInstance
  | some x =>
    match x.inst with
    | none => .fault .noInstance
    | some i =>
      match f s.port i.work with
      | none => .fault .undefinedLatch
      | some w => .next { s with streams := s.streams.set s.port.stream (x.deliver w) }

/-- `runFeed` for the handlers that are defined on every state. -/
def runTotal (f : Sample → Work → Work) (s : State) : Host.Outcome State Fault Refusal :=
  runFeed (fun p w => some (f p w)) s

end Sys2Proof.Machine
end

