-- ==== Sys2Proof/Machine/Channel.lean ====
section
/-! DEFINITION. Channel messages, status 0x80 to 0xEF (spec/41_channel_messages.md). Each meaning is the
status byte's step, R115 with the kind's status and data-byte count; the message itself is emitted by
the DATA step that completes it (R96, R97, R99). -/

namespace Sys2Proof.Machine

/-- NOTE_OFF (R116). -/
def execNoteOff (c : Channel) (s : State) : Host.Outcome State Fault Refusal :=
  runTotal (fun p => channelStatus p (statusByte 0x8#4 c) 2) s

/-- NOTE_ON (R117). -/
def execNoteOn (c : Channel) (s : State) : Host.Outcome State Fault Refusal :=
  runTotal (fun p => channelStatus p (statusByte 0x9#4 c) 2) s

/-- POLY_PRESSURE (R118). -/
def execPolyPressure (c : Channel) (s : State) : Host.Outcome State Fault Refusal :=
  runTotal (fun p => channelStatus p (statusByte 0xA#4 c) 2) s

/-- CONTROL_CHANGE (R119). -/
def execControlChange (c : Channel) (s : State) : Host.Outcome State Fault Refusal :=
  runTotal (fun p => channelStatus p (statusByte 0xB#4 c) 2) s

/-- CHANNEL_MODE (R123): the status byte's step is that of CONTROL_CHANGE, since the controller is
tested when the message is complete (R77); it is still in the stream (log 2). -/
def execChannelMode (c : Channel) (_controller : Data7) (s : State) : Host.Outcome State Fault Refusal :=
  runTotal (fun p => channelStatus p (statusByte 0xB#4 c) 2) s

/-- PROGRAM_CHANGE (R120). -/
def execProgramChange (c : Channel) (s : State) : Host.Outcome State Fault Refusal :=
  runTotal (fun p => channelStatus p (statusByte 0xC#4 c) 1) s

/-- CHANNEL_PRESSURE (R121). -/
def execChannelPressure (c : Channel) (s : State) : Host.Outcome State Fault Refusal :=
  runTotal (fun p => channelStatus p (statusByte 0xD#4 c) 1) s

/-- PITCH_BEND (R122). -/
def execPitchBend (c : Channel) (s : State) : Host.Outcome State Fault Refusal :=
  runTotal (fun p => channelStatus p (statusByte 0xE#4 c) 2) s

end Sys2Proof.Machine
end

