-- ==== Sys2Proof/Machine/DataByte.lean ====
section
/-! DEFINITION. The data byte, 0x00 to 0x7F (spec/40_decoder_step.md R95 to R98;
spec/42_system_common_sysex.md R131, R136, R137). -/

namespace Sys2Proof.Machine

/-- `AwaitData(b)` (R96): the last awaited byte emits the message with its latched time, an earlier one
is kept. None where `MkMsg` is not defined on the latched status (log 9). -/
def awaitData (q : Partial) (b : Data7) (p : Sample) (w : Work) : Option Work :=
  if q.collected + 1 = q.need then
    (if q.need = 1 then mkMsg q.status b none
      else match q.d0 with
        | none => none
        | some d0 => mkMsg q.status d0 (some b)).map
      fun m => emit p m q.t0 q.h0 (w.setPending .idle)
  else some (w.setPending (.await { q with collected := 1, d0 := some b }))

/-- `RunningData(s, b)` (R97): the first data byte of a message under running status. A kind of one data
byte is complete at once. None where `NeedOf` or `MkMsg` is not defined on `s` (log 9). -/
def runningData (s : Byte) (b : Data7) (p : Sample) (w : Work) : Option Work :=
  match needOf s with
  | some 1 => (mkMsg s b none).map fun m => emit p m p.now p.hw w
  | some 2 =>
    some (w.setPending
      (.await { status := s, need := 2, collected := 1, d0 := some b, t0 := p.now, h0 := p.hw }))
  | _ => none

/-- `OrphanData(b)` (R98): reported and dropped. -/
def orphanData (p : Sample) (w : Work) : Work := report p .orphanDataByte w

/-- `SysExOverflow()` (R136): reported once, the partial message and the byte discarded. -/
def sysExOverflow (a : SysExAcc) (p : Sample) (w : Work) : Work :=
  (report p .sysExTooLarge w).setPending (.inSysEx a.discard)

/-- `SysExData(b)` (R131): dropped after an overflow (R137), else an id byte, an overflow, or a payload
byte. -/
def sysExData (a : SysExAcc) (b : Data7) (p : Sample) (w : Work) : Work :=
  if a.ovf then w
  else if a.id.length < idNeed a.id then w.setPending (.inSysEx (a.appendId b))
  else if p.cfg.sysexMaxPayloadBytes ≤ a.payload.length then sysExOverflow a p w
  else w.setPending (.inSysEx (a.appendPayload b))

/-- `Data(b)` (R95). -/
def dataStep (b : Data7) (p : Sample) (w : Work) : Option Work :=
  match w.ds.pending with
  | .inSysEx a => some (sysExData a b p w)
  | .await q => awaitData q b p w
  | .idle =>
    match w.ds.runningStatus with
    | some s => runningData s b p w
    | none => some (orphanData p w)

/-- DATA (R95). -/
def execData (b : Data7) (s : State) : Host.Outcome State Fault Refusal := runFeed (dataStep b) s

end Sys2Proof.Machine
end

