-- ==== Sys2Proof/Machine/RealtimeByte.lean ====
section
/-! DEFINITION. System Realtime bytes, 0xF8 to 0xFF (spec/43_system_realtime.md): served at once, the
decoder state neither read nor written (R155). -/

namespace Sys2Proof.Machine

/-- A realtime message: its byte is its first and last, so it carries this step's sample (R155, R218). -/
def emitRealtime (k : Realtime) (p : Sample) (w : Work) : Work := emit p (.systemRealtime k) p.now p.hw w

/-- CLOCK (R156). -/
def execClock (s : State) : Host.Outcome State Fault Refusal := runTotal (emitRealtime .clock) s

/-- UNDEF_F9 (R157): reported, no message, no state change. -/
def execUndefF9 (s : State) : Host.Outcome State Fault Refusal :=
  runTotal (fun p => report p .undefinedStatus) s

/-- START (R158). -/
def execStart (s : State) : Host.Outcome State Fault Refusal := runTotal (emitRealtime .start) s

/-- CONTINUE (R159). -/
def execContinue (s : State) : Host.Outcome State Fault Refusal := runTotal (emitRealtime .continueMsg) s

/-- STOP (R160). -/
def execStop (s : State) : Host.Outcome State Fault Refusal := runTotal (emitRealtime .stop) s

/-- UNDEF_FD (R161): as R157. -/
def execUndefFD (s : State) : Host.Outcome State Fault Refusal :=
  runTotal (fun p => report p .undefinedStatus) s

/-- ACTIVE_SENSING (R162): no timeout is kept. -/
def execActiveSensing (s : State) : Host.Outcome State Fault Refusal := runTotal (emitRealtime .activeSensing) s

/-- RESET (R163): delivered like any realtime message; it does not reset the block (R164). -/
def execReset (s : State) : Host.Outcome State Fault Refusal := runTotal (emitRealtime .reset) s

end Sys2Proof.Machine
end

