-- ==== Sys2Proof/Machine/SystemCommon.lean ====
section
/-! DEFINITION. System Common messages, status 0xF0 to 0xF7 (spec/42_system_common_sysex.md). -/

namespace Sys2Proof.Machine

/-- `SysExStart` (R130): an empty accumulator with this step's sample latched. -/
def sysExStart (p : Sample) (w : Work) : Work :=
  w.setPending (.inSysEx { id := [], payload := [], ovf := false, t0 := p.now, h0 := p.hw })

/-- `EoxInSysEx` (R133): the SysEx is emitted as terminated unless it overflowed (R137). -/
def eoxInSysEx (p : Sample) (a : SysExAcc) (w : Work) : Work :=
  (if a.ovf then w else emit p (a.message true) a.t0 a.h0 w).setPending .idle

/-- `UnmatchedEox` (R134): always the error, and by the host's policy a zero-length SysEx with it. -/
def unmatchedEox (p : Sample) (w : Work) : Work :=
  if p.cfg.unmatchedEoxAsEmptySysex then
    emitWith p (.systemExclusive [] [] true) p.now p.hw .unmatchedEox w
  else report p .unmatchedEox w

/-- SYSEX_START (R130, R144). -/
def execSysexStart (s : State) : Host.Outcome State Fault Refusal :=
  runTotal (fun p w => sysExStart p (commonStatus p w)) s

/-- MTC_QUARTER_FRAME (R138, R144). -/
def execMtcQuarterFrame (s : State) : Host.Outcome State Fault Refusal :=
  runTotal (fun p w => enterAwait p 0xF1#8 1 (commonStatus p w)) s

/-- SONG_POSITION (R139, R144). -/
def execSongPosition (s : State) : Host.Outcome State Fault Refusal :=
  runTotal (fun p w => enterAwait p 0xF2#8 2 (commonStatus p w)) s

/-- SONG_SELECT (R140, R144). -/
def execSongSelect (s : State) : Host.Outcome State Fault Refusal :=
  runTotal (fun p w => enterAwait p 0xF3#8 1 (commonStatus p w)) s

/-- UNDEF_F4 (R141, R144). -/
def execUndefF4 (s : State) : Host.Outcome State Fault Refusal :=
  runTotal (fun p w => report p .undefinedStatus (commonStatus p w)) s

/-- UNDEF_F5 (R142, R144). -/
def execUndefF5 (s : State) : Host.Outcome State Fault Refusal :=
  runTotal (fun p w => report p .undefinedStatus (commonStatus p w)) s

/-- TUNE_REQUEST (R143, R144): complete by itself, emitted in the step of its status byte. -/
def execTuneRequest (s : State) : Host.Outcome State Fault Refusal :=
  runTotal (fun p w => emit p (.systemCommon .tuneRequest) p.now p.hw (commonStatus p w)) s

/-- EOX (R94): inside a SysEx its terminator (R133), elsewhere unmatched (R134). -/
def execEox (s : State) : Host.Outcome State Fault Refusal :=
  runTotal (fun p w =>
    match w.ds.pending with
    | .inSysEx a => eoxInSysEx p a w
    | .idle => unmatchedEox p (commonStatus p w)
    | .await _ => unmatchedEox p (commonStatus p w)) s

end Sys2Proof.Machine
end

