-- ==== Sys2Proof/Machine/Dispatch.lean ====
section
/-! DEFINITION. One arm per instruction (spec/40_decoder_step.md R91: exactly one handler runs). -/

namespace Sys2Proof.Machine

def exec (i : Instr) (s : State) : Host.Outcome State Fault Refusal :=
  match i with
  | .noteOff c => Sys2Proof.Machine.execNoteOff c s
  | .noteOn c => Sys2Proof.Machine.execNoteOn c s
  | .polyPressure c => Sys2Proof.Machine.execPolyPressure c s
  | .controlChange c => Sys2Proof.Machine.execControlChange c s
  | .channelMode c controller => Sys2Proof.Machine.execChannelMode c controller s
  | .programChange c => Sys2Proof.Machine.execProgramChange c s
  | .channelPressure c => Sys2Proof.Machine.execChannelPressure c s
  | .pitchBend c => Sys2Proof.Machine.execPitchBend c s
  | .sysexStart => Sys2Proof.Machine.execSysexStart s
  | .mtcQuarterFrame => Sys2Proof.Machine.execMtcQuarterFrame s
  | .songPosition => Sys2Proof.Machine.execSongPosition s
  | .songSelect => Sys2Proof.Machine.execSongSelect s
  | .undefF4 => Sys2Proof.Machine.execUndefF4 s
  | .undefF5 => Sys2Proof.Machine.execUndefF5 s
  | .tuneRequest => Sys2Proof.Machine.execTuneRequest s
  | .eox => Sys2Proof.Machine.execEox s
  | .clock => Sys2Proof.Machine.execClock s
  | .undefF9 => Sys2Proof.Machine.execUndefF9 s
  | .start => Sys2Proof.Machine.execStart s
  | .continueMsg => Sys2Proof.Machine.execContinue s
  | .stop => Sys2Proof.Machine.execStop s
  | .undefFD => Sys2Proof.Machine.execUndefFD s
  | .activeSensing => Sys2Proof.Machine.execActiveSensing s
  | .reset => Sys2Proof.Machine.execReset s
  | .data value => Sys2Proof.Machine.execData value s

end Sys2Proof.Machine
end

