-- ==== Sys2Proof/Machine/Encoder.lean ====
section
/-! DEFINITION. The transmit side: `encode`, a function of its operand alone (spec/45_encoder.md). -/

namespace Sys2Proof.Machine

/-- A data field in range: `<= 127` (R192). -/
def dataInRange (b : Byte) : Bool := decide (b ≤ 127#8)

/-- A channel field in range: `<= 15` (R192). -/
def channelInRange (b : Byte) : Bool := decide (b ≤ 15#8)

/-- `IdShapeOk(id, payload)` (R192). -/
def idShapeOk (id payload : List Byte) : Bool :=
  match id with
  | [] => payload.isEmpty
  | [a] => a != 0x00#8 || payload.isEmpty
  | [a, _] => a == 0x00#8 && payload.isEmpty
  | [a, _, _] => a == 0x00#8
  | _ => false

/-- The data checks of a Channel Voice kind; a Control Change ends at controller 119 (R192). -/
def Voice.valid : Voice Byte → Bool
  | .noteOff d1 d2 => dataInRange d1 && dataInRange d2
  | .noteOn d1 d2 => dataInRange d1 && dataInRange d2
  | .polyPressure d1 d2 => dataInRange d1 && dataInRange d2
  | .controlChange d1 d2 => decide (d1 ≤ 119#8) && dataInRange d2
  | .programChange d1 => dataInRange d1
  | .channelPressure d1 => dataInRange d1
  | .pitchBend d1 d2 => dataInRange d1 && dataInRange d2

/-- The data checks of a System Common kind (R192). -/
def Common.valid : Common Byte → Bool
  | .mtcQuarterFrame d1 => dataInRange d1
  | .songPositionPointer d1 d2 => dataInRange d1 && dataInRange d2
  | .songSelect d1 => dataInRange d1
  | .tuneRequest => true

/-- `Valid(m)` (R192). `terminated` is not checked (R207). -/
def Message.valid : PortMsg → Bool
  | .channelVoice c v => channelInRange c && v.valid
  | .channelMode c n v => channelInRange c && decide (120#8 ≤ n) && dataInRange n && dataInRange v
  | .systemCommon k => k.valid
  | .systemRealtime _ => true
  | .systemExclusive id payload _ =>
    id.all dataInRange && payload.all dataInRange && idShapeOk id payload

/-- The bytes of a Channel Voice message (R194 to R197, R199 to R201). -/
def Voice.bytes (c : Byte) : Voice Byte → List Byte
  | .noteOff d1 d2 => [0x80#8 ||| c, d1, d2]
  | .noteOn d1 d2 => [0x90#8 ||| c, d1, d2]
  | .polyPressure d1 d2 => [0xA0#8 ||| c, d1, d2]
  | .controlChange d1 d2 => [0xB0#8 ||| c, d1, d2]
  | .programChange d1 => [0xC0#8 ||| c, d1]
  | .channelPressure d1 => [0xD0#8 ||| c, d1]
  | .pitchBend d1 d2 => [0xE0#8 ||| c, d1, d2]

/-- The bytes of a System Common message (R202 to R205). -/
def Common.bytes : Common Byte → List Byte
  | .mtcQuarterFrame d1 => [0xF1#8, d1]
  | .songPositionPointer d1 d2 => [0xF2#8, d1, d2]
  | .songSelect d1 => [0xF3#8, d1]
  | .tuneRequest => [0xF6#8]

/-- The byte of a System Realtime message (R206). -/
def Realtime.byte : Realtime → Byte
  | .clock => 0xF8#8
  | .start => 0xFA#8
  | .continueMsg => 0xFB#8
  | .stop => 0xFC#8
  | .activeSensing => 0xFE#8
  | .reset => 0xFF#8

/-- The canonical bytes: status, `d1`, `d2`; a SysEx always closed by EOX, whatever `terminated` says
(R193, R198, R207). -/
def Message.bytes : PortMsg → List Byte
  | .channelVoice c v => v.bytes c
  | .channelMode c n v => [0xB0#8 ||| c, n, v]
  | .systemCommon k => k.bytes
  | .systemRealtime k => [k.byte]
  | .systemExclusive id payload _ => [0xF0#8] ++ id ++ payload ++ [0xF7#8]

/-- `encode(m)`: the bytes of a valid message, else the error and no bytes (R190, R192, R209). -/
def encodeMessage (m : PortMsg) : EncodeResult :=
  if m.valid then .ok m.bytes else .err .valueOutOfRange

end Sys2Proof.Machine
end

