-- ==== Sys2Proof/Machine/Lifecycle.lean ====
section
/-! DEFINITION. The host's calls other than `feed`: `open`, `resync`, `close`
(spec/70_reset_and_hazards.md R261 to R264) and `encode` (spec/45_encoder.md R190). -/

namespace Sys2Proof.Machine

/-- `open()` (R261): one more stream with a fresh instance; no event, `cfg` untouched. -/
def openStream (s : State) : State :=
  { s with streams := s.streams ++ [{ inst := some .fresh, events := [] }] }

/-- A command on an existing instance; there is none otherwise (R277; log 8). -/
def onInstance (k : Nat) (f : Instance → Option Instance) (s : State) : Host.Outcome State Fault Refusal :=
  match s.streams[k]? with
  | none => .fault .noInstance
  | some x =>
    match x.inst with
    | none => .fault .noInstance
    | some i => .next { s with streams := s.streams.set k { x with inst := f i } }

/-- `resync()` (R262): exactly the state `open` creates, without an event. -/
def resyncStream (k : Nat) (s : State) : Host.Outcome State Fault Refusal :=
  onInstance k (fun _ => some .fresh) s

/-- `close()` (R263): the instance ceases to exist, without an event. -/
def closeStream (k : Nat) (s : State) : Host.Outcome State Fault Refusal :=
  onInstance k (fun _ => none) s

/-- One `encode` call: its result goes to the transmit port, nothing else changes (R190, R208). -/
def transmit (m : PortMsg) (s : State) : State :=
  { s with transmitted := s.transmitted ++ [encodeMessage m] }

/-- One command of the host, between two steps of a stream (R246). -/
def runCommand (c : Command) (s : State) : Host.Outcome State Fault Refusal :=
  match c with
  | .openStream => .next (openStream s)
  | .resync k => resyncStream k s
  | .close k => closeStream k s
  | .encode m => .next (transmit m s)

end Sys2Proof.Machine
end

