-- ==== Sys2Proof/Machine/Fetch.lean ====
section
/-! DEFINITION. Taking the host's next call: "instruction fetch is the acceptance of one input byte by
`feed`" (spec/00_scope.md R7; spec/20_memory.md R46), and placing a table word as the next input. -/

namespace Sys2Proof.Machine

/-- The input bytes of stream `k` that the host still presents, in order, up to a command that ends or
empties the stream's instance (R46). -/
def inputOf (k : Nat) : List Call → List Byte
  | [] => []
  | .feed p b :: rest => if p.stream = k then b :: inputOf k rest else inputOf k rest
  | .command (.resync j) :: rest => if j = k then [] else inputOf k rest
  | .command (.close j) :: rest => if j = k then [] else inputOf k rest
  | .command .openStream :: rest => inputOf k rest
  | .command (.encode _) :: rest => inputOf k rest

/-- What the next call asks for. -/
inductive Fetched where
  /-- The host makes no call: nothing happens (R250, R267). -/
  | quiet
  /-- A byte is accepted: its instruction, and the state with its sample at the port. -/
  | instr (i : Instr) (s : State)
  /-- A command of the host. -/
  | command (c : Command) (s : State)
deriving DecidableEq, Repr

/-- The state once the sample of a byte is at the port and its call is taken (R34, R216). -/
def State.accept (s : State) (p : Sample) (rest : List Call) : State := { s with calls := rest, port := p }

/-- Takes the next call. The bytes after the first only tell CHANNEL_MODE from CONTROL_CHANGE, which do
the same here (R77; log 2). -/
def fetch (s : State) : Fetched :=
  match s.calls with
  | [] => .quiet
  | .feed p b :: rest =>
    .instr (decodeByte b (nextOfMessage (inputOf p.stream rest))) (s.accept p rest)
  | .command c :: rest => .command c { s with calls := rest }

/-- The addressed stream has an instance. -/
def State.hasInstance (s : State) : Bool :=
  match s.streams[s.port.stream]? with
  | some x => x.inst.isSome
  | none => false

/-- A stream with an instance is addressed: opened and addressed if there was none (R265). -/
def State.withInstance (s : State) : State :=
  if s.hasInstance then s
  else { openStream s with port := { s.port with stream := s.streams.length } }

/-- The bytes as the host's next calls on the addressed stream, each with the sample at the port. -/
def State.withInput (s : State) (bytes : List Byte) : State :=
  { s with calls := bytes.map (Call.feed s.port) ++ s.calls }

/-- A table word placed as the next input (log 13). -/
def State.placeWord (s : State) (nbits w : Nat) : State :=
  s.withInstance.withInput (bytesOfTableWord nbits w)

end Sys2Proof.Machine
end

