-- ==== Sys2Proof/Machine/Step.lean ====
section
/-! DEFINITION. One step: the host's next call. A `feed` accepts one byte and runs its instruction, whole
and at once (spec/00_scope.md R8; spec/20_memory.md R53); a command lands between two bytes
(spec/60_exceptions.md R246); without a call the block keeps all its state (R250; log 3). -/

namespace Sys2Proof.Machine

def step (s : State) : Host.Outcome State Fault Refusal :=
  match fetch s with
  | .quiet => .next s
  | .instr i t => exec i t
  | .command c t => runCommand c t

/-- The state whose very next step runs the instruction of a table word (log 13). -/
def State.withFetchWord (s : State) (nbits w : Nat) : State := s.placeWord nbits w

end Sys2Proof.Machine
end

