-- ==== Sys2Proof/Safety.lean ====
section
/-! DEFINITION. The terms claims are stated in: a live stream, the state after a step of it, the shapes
of events, and the invariant that every rule keeps (spec/10_state.md R16, R19, R20, R26, R41). -/

namespace Sys2Proof

/-- The status instructions of [0x80, 0xEF]. -/
def Instr.isChannelStatus : Instr → Bool
  | .noteOff _ | .noteOn _ | .polyPressure _ | .controlChange _ | .channelMode _ _ | .programChange _
  | .channelPressure _ | .pitchBend _ => true
  | _ => false

/-- The status instructions of [0xF0, 0xF6]. -/
def Instr.isCommonStatus : Instr → Bool
  | .sysexStart | .mtcQuarterFrame | .songPosition | .songSelect | .undefF4 | .undefF5 | .tuneRequest => true
  | _ => false

/-- The realtime instructions, 0xF8 to 0xFF. -/
def Instr.isRealtime : Instr → Bool
  | .clock | .undefF9 | .start | .continueMsg | .stop | .undefFD | .activeSensing | .reset => true
  | _ => false

end Sys2Proof

namespace Sys2Proof.Machine

/-- The addressed stream is `x` and has the instance `i`. -/
abbrev State.Live (s : State) (x : Stream) (i : Instance) : Prop :=
  s.streams[s.port.stream]? = some x ∧ x.inst = some i

/-- `s` with a step of the addressed stream `x` done: the instance is `i`, the events `evs` were
delivered after the earlier ones; every other stream, the port, the host's calls and what was
transmitted are those of `s`. -/
def State.stepped (s : State) (x : Stream) (i : Instance) (evs : List Event) : State :=
  { s with streams := s.streams.set s.port.stream { inst := some i, events := x.events ++ evs } }

/-- An error event (R92). -/
def errorEvent (p : Sample) (e : ErrorKind) : Event := { msg := none, err := some e, atTime := p.now }

/-- An event with a message (R41, R92). -/
def messageEvent (p : Sample) (m : Msg) (a : Ann) (t : Time) (h : Option HwTime) (e : Option ErrorKind) :
    Event :=
  { msg := some { msg := m, ann := a, systemTime := t, hardwareTime := h }, err := e, atTime := p.now }

/-- `Partial` as every rule leaves it (R19): `need = NeedOf(status)`, 1 or 2; `have < need`; `d0` is there
exactly when `have = 1`; running status is the status of a channel message and absent for a System
Common message. -/
def Partial.ok (q : Partial) (running : Option Byte) : Bool :=
  needOf q.status == some q.need &&
    ((q.need == 1 && q.collected == 0 && q.d0.isNone) ||
      (q.need == 2 && q.collected == 0 && q.d0.isNone) ||
      (q.need == 2 && q.collected == 1 && q.d0.isSome)) &&
    (running == if q.status ≤ 0xEF#8 then some q.status else none)

/-- A running status is in [0x80, 0xEF] (R16). -/
def runningOk (running : Option Byte) : Bool :=
  match running with
  | none => true
  | some b => decide (0x80#8 ≤ b) && decide (b ≤ 0xEF#8)

/-- `DS` as every rule leaves it (R16, R19, R20). -/
def DecoderState.ok (ds : DecoderState) : Bool :=
  runningOk ds.runningStatus &&
    match ds.pending with
    | .idle => true
    | .await q => q.ok ds.runningStatus
    | .inSysEx a => ds.runningStatus.isNone && a.wf

/-- A pair never rests at (127, 127) (R26). -/
def ChanSel.ok (x : ChanSel) : Bool :=
  !(x.rpnMsb == some 127#7 && x.rpnLsb == some 127#7) && !(x.nrpnMsb == some 127#7 && x.nrpnLsb == some 127#7)

/-- `CS` as every rule leaves it (R26). -/
def ClassifierState.ok (cs : ClassifierState) : Bool := cs.ch.toList.all ChanSel.ok

def Instance.ok (i : Instance) : Bool := i.ds.ok && i.cs.ok

/-- An event carries a message or an error (R41). -/
def Event.ok (e : Event) : Bool := e.msg.isSome || e.err.isSome

def Stream.ok (x : Stream) : Bool :=
  (match x.inst with
    | none => true
    | some i => i.ok) && x.events.all Event.ok

/-- The invariant of the machine. -/
def State.ok (s : State) : Bool := s.streams.all Stream.ok

/-- The event that disposes of the message in progress when a status byte in [0x80, 0xF7] arrives that
does not complete it, by the four cases of R93; it never touches the classifier state (R179). -/
def closingEvents (p : Sample) : Pending → List Event
  | .idle => []
  | .await _ => [errorEvent p .truncatedMessage]
  | .inSysEx a =>
    if a.ovf then [errorEvent p .implicitSysExTermination]
    else
      [messageEvent p (.systemExclusive a.id a.payload false)
        { Ann.plain with universal := universalOf a.id a.payload } a.t0 a.h0
        (some .implicitSysExTermination)]

/-- The state after a step of the addressed stream that ends in `Idle` with the message `m`, classified
and stamped with `t`, `h` (R96, R105). -/
def State.steppedWith (s : State) (x : Stream) (i : Instance) (m : Msg) (t : Time) (h : Option HwTime) : State :=
  s.stepped x { ds := { i.ds with pending := .idle }, cs := (classify s.port.cfg m i.cs).2 }
    [messageEvent s.port m (classify s.port.cfg m i.cs).1 t h none]

/-- A two-data-byte message that waits for its second byte (R19). -/
def Partial.second (status : Byte) (d0 : Data7) (t : Time) (h : Option HwTime) : Partial :=
  { status := status, need := 2, collected := 1, d0 := some d0, t0 := t, h0 := h }

/-- A message of `need` data bytes that has its status only (R19). -/
def Partial.first (status : Byte) (need : Nat) (t : Time) (h : Option HwTime) : Partial :=
  { status := status, need := need, collected := 0, d0 := none, t0 := t, h0 := h }

/-- The payload bytes held by a message in progress (R147). -/
def Pending.payloadLength : Pending → Nat
  | .inSysEx a => a.payload.length
  | .idle => 0
  | .await _ => 0

/-- How many of the events carry a message. -/
def messageCount (evs : List Event) : Nat := (evs.filter fun e => e.msg.isSome).length

/-- How many of the events carry an error. -/
def errorCount (evs : List Event) : Nat := (evs.filter fun e => e.err.isSome).length

/-- The payload a message brings to the accumulator of a receiver. -/
def Message.payloadLength : PortMsg → Nat
  | .systemExclusive _ payload _ => payload.length
  | .channelVoice _ _ => 0
  | .channelMode _ _ _ => 0
  | .systemCommon _ => 0
  | .systemRealtime _ => 0

/-- The message is no `SystemExclusive` with `terminated = false` (R210). -/
def Message.closed : PortMsg → Bool
  | .systemExclusive _ _ terminated => terminated
  | .channelVoice _ _ => true
  | .channelMode _ _ _ => true
  | .systemCommon _ => true
  | .systemRealtime _ => true

/-- The message is a System Realtime message. -/
def Message.isRealtime : PortMsg → Bool
  | .systemRealtime _ => true
  | .channelVoice _ _ => false
  | .channelMode _ _ _ => false
  | .systemCommon _ => false
  | .systemExclusive _ _ _ => false

/-- The host's calls that feed `items` in order, one byte a call (R61, R271). -/
def feedCalls (items : List (Sample × Byte)) : List Call := items.map fun it => Call.feed it.1 it.2

/-- `k` steps of the machine from `s`, up to the first stop; it is `Sys2Proof.core.run`. -/
def runSteps : Nat → State → Host.Outcome State Fault Refusal
  | 0, s => .next s
  | k + 1, s =>
    match step s with
    | .next t => runSteps k t
    | .fault r => .fault r
    | .refused r => .refused r

/-- The run from `s` reaches a state with `good`. -/
def Reaches (o : Host.Outcome State Fault Refusal) (good : State → Prop) : Prop := ∃ t, o = .next t ∧ good t

end Sys2Proof.Machine
end

