-- ==== Sys2Proof/Certificates/Slice0/Obligations.lean ====
section
/-! DEFINITION. The statements. Each docstring names the rule of spec/ it formalises. A statement about a
step of a stream is about every state whose addressed stream has an instance (`State.Live`); the state
it ends in is written out by `State.stepped`, which leaves every other stream, the port with the
configuration, the host's calls and the transmitted results as they were. -/

open Sys2Proof Sys2Proof.Machine

/-- R65 to R69, R77, R84: words written out from the spec's encodings, one or more of every family. -/
def Obligations.SpecWordsDecodeToTheirRows : Prop :=
  decode [0b10000001#8] = .instr (.noteOff 1#4) [] ∧
  decode [0b10011111#8] = .instr (.noteOn 15#4) [] ∧
  decode [0b10110000#8, 0b00000111#8] = .instr (.controlChange 0#4) [0b00000111#8] ∧
  decode [0b10110011#8, 0b01111011#8, 0b00000000#8] =
    .instr (.channelMode 3#4 123#7) [0b01111011#8, 0b00000000#8] ∧
  decode [0b11000101#8] = .instr (.programChange 5#4) [] ∧
  decode [0b11110000#8, 0b01000011#8] = .instr .sysexStart [0b01000011#8] ∧
  decode [0b11110010#8] = .instr .songPosition [] ∧
  decode [0b11110111#8] = .instr .eox [] ∧
  decode [0b11111000#8] = .instr .clock [] ∧
  decode [0b11111101#8] = .instr .undefFD [] ∧
  decode [0b01000000#8] = .instr (.data 64#7) []

/-- Decoding the words of a well-formed instruction gives it back, at every value of every operand. -/
def Obligations.DecodeOfEncodeIsTheInstruction : Prop :=
  ∀ i : Instr, i.wellFormed = true → decode (encode i) = .instr i (encode i).tail

/-- The other direction: a decoded instruction is well formed, takes one byte, and its own first word is
that byte. -/
def Obligations.DecodedInstructionEncodesToItsByte : Prop :=
  ∀ (bytes rest : List Byte) (i : Instr), decode bytes = .instr i rest →
    i.wellFormed = true ∧ ∃ b, bytes = b :: rest ∧ (encode i).head? = some b

/-- R63, R64, R54: every byte value is accepted, and its class is decided by its value alone. -/
def Obligations.EveryByteDecodesInItsClass : Prop :=
  ∀ (b : Byte) (rest : List Byte), ∃ i : Instr, decode (b :: rest) = .instr i rest ∧
    (i.isRealtime = true ↔ 0xF8 ≤ b.toNat) ∧
    ((i.isCommonStatus = true ∨ i = .eox) ↔ 0xF0 ≤ b.toNat ∧ b.toNat ≤ 0xF7) ∧
    (i.isChannelStatus = true ↔ 0x80 ≤ b.toNat ∧ b.toNat ≤ 0xEF) ∧
    ((∃ v : Data7, i = .data v ∧ v.toNat = b.toNat) ↔ b.toNat ≤ 0x7F)

/-- R7, R8: a step with a `feed` as the next call accepts its byte, puts its sample at the port, and is
`exec` of the instruction that decodes from the byte and the stream's input after it. That a step takes the
first of a list of calls is the model's choice (log 3); so is the read-ahead over the later calls, where the
spec has none (R46, R91): it only names the row of a byte 0xBn (log 2). -/
def Obligations.StepRunsTheAcceptedByte : Prop :=
  ∀ (s : State) (p : Sample) (b : Byte) (rest : List Call) (i : Instr) (tail : List Byte),
    s.calls = .feed p b :: rest →
    decode (b :: inputOf p.stream rest) = .instr i tail →
    step s = exec i { s with calls := rest, port := p }

/-- R250, R267 (the model's choice, log 3): without a call the block keeps all its state. -/
def Obligations.StepWithoutCallKeepsTheState : Prop :=
  ∀ s : State, s.calls = [] → step s = .next s

/-- R43, R261: after reset there is one instance; `running_status` and `pending` are None and every
selector of every channel is None. -/
def Obligations.ResetIsOneEmptyInstance : Prop :=
  ∃ x i, State.reset.streams = [x] ∧ x.inst = some i ∧
    i.ds.runningStatus = none ∧ i.ds.pending = .idle ∧ i.ds.mode = .idle ∧
    ∀ c : Channel, (i.cs.sel c).rpnMsb = none ∧ (i.cs.sel c).rpnLsb = none ∧
      (i.cs.sel c).nrpnMsb = none ∧ (i.cs.sel c).nrpnLsb = none ∧ (i.cs.sel c).lastSel = none

/-- The invariant of R16, R19, R20, R26 and R41 holds after reset. -/
def Obligations.ResetMeetsTheInvariant : Prop := State.reset.ok = true

/-- R16, R19, R20, R26, R41: every step keeps the invariant, whatever the host's next call is. -/
def Obligations.StepKeepsTheInvariant : Prop :=
  ∀ s t : State, s.ok = true → step s = .next t → t.ok = true

/-- R101: `feed` is total. In every state that meets the invariant and addresses an instance, every
instruction completes. -/
def Obligations.EveryInstructionCompletes : Prop :=
  ∀ (s : State) (x : Stream) (i : Instance) (j : Instr), s.ok = true → s.Live x i →
    ∃ t, exec j s = .next t

/-- R277: a `feed` on a stream without an instance has no step. -/
def Obligations.FeedWithoutInstanceStops : Prop :=
  ∀ (s : State) (j : Instr), (∀ x i, ¬ s.Live x i) → exec j s = .fault .noInstance

/-- R115, R93, R94: a channel status byte first disposes of the message in progress, then sets running
status and awaits its kind's data bytes with this step's sample latched; the classifier state is
unchanged. -/
def Obligations.ChannelStatusClosesThenAwaits : Prop :=
  ∀ (s : State) (x : Stream) (i : Instance) (c : Channel) (n : Data7), s.Live x i →
    let after : Byte → Nat → Host.Outcome State Fault Refusal := fun b need =>
      .next (s.stepped x
        { i with ds := { runningStatus := some b, pending := .await (.first b need s.port.now s.port.hw) } }
        (closingEvents s.port i.ds.pending))
    exec (.noteOff c) s = after (0x8#4 ++ c) 2 ∧
    exec (.noteOn c) s = after (0x9#4 ++ c) 2 ∧
    exec (.polyPressure c) s = after (0xA#4 ++ c) 2 ∧
    exec (.controlChange c) s = after (0xB#4 ++ c) 2 ∧
    exec (.channelMode c n) s = after (0xB#4 ++ c) 2 ∧
    exec (.programChange c) s = after (0xC#4 ++ c) 1 ∧
    exec (.channelPressure c) s = after (0xD#4 ++ c) 1 ∧
    exec (.pitchBend c) s = after (0xE#4 ++ c) 2

/-- R138, R139, R140 with R144: 0xF1, 0xF2, 0xF3 dispose of the message in progress, clear running status
and await their data bytes. -/
def Obligations.SystemCommonStatusClosesThenAwaits : Prop :=
  ∀ (s : State) (x : Stream) (i : Instance), s.Live x i →
    let after : Byte → Nat → Host.Outcome State Fault Refusal := fun b need =>
      .next (s.stepped x
        { i with ds := { runningStatus := none, pending := .await (.first b need s.port.now s.port.hw) } }
        (closingEvents s.port i.ds.pending))
    exec .mtcQuarterFrame s = after 0xF1#8 1 ∧
    exec .songPosition s = after 0xF2#8 2 ∧
    exec .songSelect s = after 0xF3#8 1

/-- R130 with R144: 0xF0 disposes of the message in progress, clears running status and starts an empty
accumulator with this step's sample latched. -/
def Obligations.SysExStartOpensAnEmptyAccumulator : Prop :=
  ∀ (s : State) (x : Stream) (i : Instance), s.Live x i →
    exec .sysexStart s = .next (s.stepped x
      { i with ds :=
          { runningStatus := none
            pending := .inSysEx { id := [], payload := [], ovf := false, t0 := s.port.now, h0 := s.port.hw } } }
      (closingEvents s.port i.ds.pending))

/-- R141, R142 with R144: 0xF4 and 0xF5 dispose of the message in progress, clear running status, end in
`Idle` and report `UndefinedStatus`, in that order. -/
def Obligations.UndefinedCommonStatusIsReported : Prop :=
  ∀ (s : State) (x : Stream) (i : Instance), s.Live x i →
    let after : Host.Outcome State Fault Refusal :=
      .next (s.stepped x { i with ds := { runningStatus := none, pending := .idle } }
        (closingEvents s.port i.ds.pending ++ [errorEvent s.port .undefinedStatus]))
    exec .undefF4 s = after ∧ exec .undefF5 s = after

/-- R143 with R144: 0xF6 is a whole message, emitted in its own step with its own sample; inside a SysEx
the step emits two messages. -/
def Obligations.TuneRequestIsEmittedAtOnce : Prop :=
  ∀ (s : State) (x : Stream) (i : Instance), s.Live x i →
    exec .tuneRequest s = .next (s.stepped x { i with ds := { runningStatus := none, pending := .idle } }
      (closingEvents s.port i.ds.pending ++
        [messageEvent s.port (.systemCommon .tuneRequest) .plain s.port.now s.port.hw none]))

/-- R133, R137: 0xF7 inside a SysEx emits it as terminated, with its latched time, unless it overflowed;
then the decoder is `Idle` without an event. -/
def Obligations.EoxEndsASysEx : Prop :=
  ∀ (s : State) (x : Stream) (i : Instance) (a : SysExAcc), s.Live x i → i.ds.pending = .inSysEx a →
    exec .eox s = .next (s.stepped x { i with ds := { i.ds with pending := .idle } }
      (if a.ovf then []
        else [messageEvent s.port (.systemExclusive a.id a.payload true)
          { Ann.plain with universal := universalOf a.id a.payload } a.t0 a.h0 none]))

/-- R134: 0xF7 outside a SysEx clears running status, ends in `Idle` and reports `UnmatchedEox` under
either policy, with a zero-length SysEx in the same event when `cfg` asks for it. -/
def Obligations.UnmatchedEoxIsReported : Prop :=
  ∀ (s : State) (x : Stream) (i : Instance), s.Live x i → (∀ a, i.ds.pending ≠ .inSysEx a) →
    exec .eox s = .next (s.stepped x { i with ds := { runningStatus := none, pending := .idle } }
      (closingEvents s.port i.ds.pending ++
        [if s.port.cfg.unmatchedEoxAsEmptySysex then
          messageEvent s.port (.systemExclusive [] [] true) .plain s.port.now s.port.hw (some .unmatchedEox)
        else errorEvent s.port .unmatchedEox]))

/-- R96, R99: the last awaited data byte emits the message of the latched status and data, with the
latched time; the decoder is `Idle` and keeps running status. -/
def Obligations.LastDataByteCompletesTheMessage : Prop :=
  ∀ (s : State) (x : Stream) (i : Instance) (c : Channel) (a b : Data7) (t : Time) (h : Option HwTime),
    s.Live x i →
    let two : Byte → Msg → Prop := fun status m =>
      i.ds.pending = .await (.second status a t h) → exec (.data b) s = .next (s.steppedWith x i m t h)
    let one : Byte → Msg → Prop := fun status m =>
      i.ds.pending = .await (.first status 1 t h) → exec (.data b) s = .next (s.steppedWith x i m t h)
    two (0x8#4 ++ c) (.channelVoice c (.noteOff a b)) ∧
    two (0x9#4 ++ c) (.channelVoice c (.noteOn a b)) ∧
    two (0xA#4 ++ c) (.channelVoice c (.polyPressure a b)) ∧
    two (0xB#4 ++ c)
      (if 120 ≤ a.toNat then .channelMode c a b else .channelVoice c (.controlChange a b)) ∧
    one (0xC#4 ++ c) (.channelVoice c (.programChange b)) ∧
    one (0xD#4 ++ c) (.channelVoice c (.channelPressure b)) ∧
    two (0xE#4 ++ c) (.channelVoice c (.pitchBend a b)) ∧
    one 0xF1#8 (.systemCommon (.mtcQuarterFrame b)) ∧
    two 0xF2#8 (.systemCommon (.songPositionPointer a b)) ∧
    one 0xF3#8 (.systemCommon (.songSelect b))

/-- R96: the first of two awaited data bytes is kept, without an event. -/
def Obligations.FirstOfTwoDataBytesIsKept : Prop :=
  ∀ (s : State) (x : Stream) (i : Instance) (status : Byte) (b : Data7) (t : Time) (h : Option HwTime),
    s.Live x i → i.ds.pending = .await (.first status 2 t h) →
    exec (.data b) s =
      .next (s.stepped x { i with ds := { i.ds with pending := .await (.second status b t h) } } [])

/-- R97: in `Idle`, under the running status of a kind of two data bytes, a data byte is the first byte of
a new message and latches its own sample. -/
def Obligations.RunningStatusStartsAMessage : Prop :=
  ∀ (s : State) (x : Stream) (i : Instance) (k : BitVec 4) (c : Channel) (b : Data7),
    s.Live x i → i.ds.pending = .idle → i.ds.runningStatus = some (k ++ c) →
    k ∈ [0x8#4, 0x9#4, 0xA#4, 0xB#4, 0xE#4] →
    exec (.data b) s = .next (s.stepped x
      { i with ds := { i.ds with pending := .await (.second (k ++ c) b s.port.now s.port.hw) } } [])

/-- R97 (0xCn, 0xDn): under the running status of a kind of one data byte each data byte is a whole
message, emitted in its own step with its own sample. -/
def Obligations.RunningStatusOneByteKindsCompleteAtOnce : Prop :=
  ∀ (s : State) (x : Stream) (i : Instance) (c : Channel) (b : Data7), s.Live x i → i.ds.pending = .idle →
    (i.ds.runningStatus = some (0xC#4 ++ c) →
      exec (.data b) s =
        .next (s.steppedWith x i (.channelVoice c (.programChange b)) s.port.now s.port.hw)) ∧
    (i.ds.runningStatus = some (0xD#4 ++ c) →
      exec (.data b) s =
        .next (s.steppedWith x i (.channelVoice c (.channelPressure b)) s.port.now s.port.hw))

/-- R98: a data byte in `Idle` without running status is reported and dropped; no state changes. -/
def Obligations.OrphanDataByteIsReportedAndDropped : Prop :=
  ∀ (s : State) (x : Stream) (i : Instance) (b : Data7), s.Live x i → i.ds.pending = .idle →
    i.ds.runningStatus = none →
    exec (.data b) s = .next (s.stepped x i [errorEvent s.port .orphanDataByte])

/-- R131, R132: in a SysEx that has not overflowed, a data byte goes to the id while the id is incomplete,
else to the payload while there is room; neither emits. The id is one byte, or three when the first is
0x00. -/
def Obligations.SysExDataByteIsStored : Prop :=
  ∀ (s : State) (x : Stream) (i : Instance) (a : SysExAcc) (b : Data7), s.Live x i →
    i.ds.pending = .inSysEx a → a.ovf = false →
    let incomplete : Prop := a.id = [] ∨ (a.id.head? = some 0x00#7 ∧ a.id.length < 3)
    (incomplete → exec (.data b) s = .next (s.stepped x
      { i with ds := { i.ds with pending := .inSysEx { a with id := a.id ++ [b] } } } [])) ∧
    (¬ incomplete → a.payload.length < s.port.cfg.sysexMaxPayloadBytes →
      exec (.data b) s = .next (s.stepped x
        { i with ds := { i.ds with pending := .inSysEx { a with payload := a.payload ++ [b] } } } []))

/-- R136: a payload byte without room reports `SysExTooLarge`; id, payload and the byte are discarded, the
overflow flag is set and the latch kept. -/
def Obligations.SysExOverflowDiscardsTheMessage : Prop :=
  ∀ (s : State) (x : Stream) (i : Instance) (a : SysExAcc) (b : Data7), s.Live x i →
    i.ds.pending = .inSysEx a → a.ovf = false → a.id.length = idNeed a.id →
    s.port.cfg.sysexMaxPayloadBytes ≤ a.payload.length →
    exec (.data b) s = .next (s.stepped x
      { i with ds :=
          { i.ds with pending := .inSysEx { id := [], payload := [], ovf := true, t0 := a.t0, h0 := a.h0 } } }
      [errorEvent s.port .sysExTooLarge])

/-- R137: after an overflow a data byte is dropped without an event and nothing changes. -/
def Obligations.OverflowedSysExDropsDataBytes : Prop :=
  ∀ (s : State) (x : Stream) (i : Instance) (a : SysExAcc) (b : Data7), s.Live x i →
    i.ds.pending = .inSysEx a → a.ovf = true → exec (.data b) s = .next (s.stepped x i [])

/-- R147, R48: a step adds at most one payload byte, and none beyond the cap in force. -/
def Obligations.PayloadGrowsOnlyBelowTheCap : Prop :=
  ∀ (s t : State) (x y : Stream) (i i' : Instance) (j : Instr), s.Live x i → exec j s = .next t →
    t.Live y i' →
    i'.ds.pending.payloadLength ≤ i.ds.pending.payloadLength ∨
      (i'.ds.pending.payloadLength = i.ds.pending.payloadLength + 1 ∧
        i'.ds.pending.payloadLength ≤ s.port.cfg.sysexMaxPayloadBytes)

/-- R155, R156, R158 to R160, R162 to R164: a realtime byte is emitted at once with its own sample; the
decoder state and the classifier state are unchanged, in every mode, for `Reset` too. -/
def Obligations.RealtimeMessagesAreEmittedAtOnce : Prop :=
  ∀ (s : State) (x : Stream) (i : Instance), s.Live x i →
    let after : Realtime → Host.Outcome State Fault Refusal := fun k =>
      .next (s.stepped x i [messageEvent s.port (.systemRealtime k) .plain s.port.now s.port.hw none])
    exec .clock s = after .clock ∧ exec .start s = after .start ∧
    exec .continueMsg s = after .continueMsg ∧ exec .stop s = after .stop ∧
    exec .activeSensing s = after .activeSensing ∧ exec .reset s = after .reset

/-- R157, R161: 0xF9 and 0xFD are reported and change nothing. -/
def Obligations.UndefinedRealtimeIsReported : Prop :=
  ∀ (s : State) (x : Stream) (i : Instance), s.Live x i →
    exec .undefF9 s = .next (s.stepped x i [errorEvent s.port .undefinedStatus]) ∧
    exec .undefFD s = .next (s.stepped x i [errorEvent s.port .undefinedStatus])

/-- R172, R173, R174: a selector controller writes its half of its pair and names the pair as the last
written; a pair that reaches (127, 127) is cleared; the other pair and the other 15 channels are
untouched; the selector message has the default annotation. -/
def Obligations.SelectorWriteSetsOneHalfOrClearsThePair : Prop :=
  ∀ (cfg : Cfg) (cs : ClassifierState) (c c' : Channel) (v : Data7),
    let old := cs.sel c
    let msg : Data7 → Msg := fun n => .channelVoice c (.controlChange n v)
    (classify cfg (msg 101#7) cs).2.sel c =
      (if v = 127#7 ∧ old.rpnLsb = some 127#7
        then { old with rpnMsb := none, rpnLsb := none, lastSel := some .rpn }
        else { old with rpnMsb := some v, lastSel := some .rpn }) ∧
    (classify cfg (msg 100#7) cs).2.sel c =
      (if v = 127#7 ∧ old.rpnMsb = some 127#7
        then { old with rpnMsb := none, rpnLsb := none, lastSel := some .rpn }
        else { old with rpnLsb := some v, lastSel := some .rpn }) ∧
    (classify cfg (msg 99#7) cs).2.sel c =
      (if v = 127#7 ∧ old.nrpnLsb = some 127#7
        then { old with nrpnMsb := none, nrpnLsb := none, lastSel := some .nrpn }
        else { old with nrpnMsb := some v, lastSel := some .nrpn }) ∧
    (classify cfg (msg 98#7) cs).2.sel c =
      (if v = 127#7 ∧ old.nrpnMsb = some 127#7
        then { old with nrpnMsb := none, nrpnLsb := none, lastSel := some .nrpn }
        else { old with nrpnLsb := some v, lastSel := some .nrpn }) ∧
    ∀ n ∈ [98#7, 99#7, 100#7, 101#7], (classify cfg (msg n) cs).1 = .plain ∧
      (c' ≠ c → (classify cfg (msg n) cs).2.sel c' = cs.sel c')

/-- R175, R26, R176: when both halves of a pair have been written, in either order and whatever the other
pair holds, that pair is the active one and data entry on that channel carries it. The one exception is
a first half that completes (127, 127) with an old half and so clears the pair (R174). Where both pairs are
complete this rests on the spec's own decision D21 (spec/93 U2; log 11). -/
def Obligations.LastWrittenPairIsActive : Prop :=
  ∀ (cfg : Cfg) (cs : ClassifierState) (c : Channel) (m l v n : Data7), ¬ (m = 127#7 ∧ l = 127#7) →
    n ∈ [6#7, 38#7, 96#7, 97#7] →
    let write : Data7 → Data7 → ClassifierState → ClassifierState := fun k d cs =>
      (classify cfg (.channelVoice c (.controlChange k d)) cs).2
    let entry : ClassifierState → Option Param := fun cs =>
      (classify cfg (.channelVoice c (.controlChange n v)) cs).1.param
    let old := cs.sel c
    (¬ (m = 127#7 ∧ old.rpnLsb = some 127#7) →
      entry (write 100#7 l (write 101#7 m cs)) = some { space := .rpn, msb := m, lsb := l }) ∧
    (¬ (l = 127#7 ∧ old.rpnMsb = some 127#7) →
      entry (write 101#7 m (write 100#7 l cs)) = some { space := .rpn, msb := m, lsb := l }) ∧
    (¬ (m = 127#7 ∧ old.nrpnLsb = some 127#7) →
      entry (write 98#7 l (write 99#7 m cs)) = some { space := .nrpn, msb := m, lsb := l }) ∧
    (¬ (l = 127#7 ∧ old.nrpnMsb = some 127#7) →
      entry (write 99#7 m (write 98#7 l cs)) = some { space := .nrpn, msb := m, lsb := l })

/-- R176, R26: data entry changes no selection and is annotated with the pair its channel's `last_sel`
names when both halves of that pair are there; when they are not, or nothing was selected, with none,
whatever the other pair holds. Where both pairs are complete, and where the named one is not and the other is,
this rests on the spec's own decision D21 (spec/93 U2; log 11). -/
def Obligations.DataEntryCarriesTheActiveParameter : Prop :=
  ∀ (cfg : Cfg) (cs : ClassifierState) (c : Channel) (n v m l : Data7), n ∈ [6#7, 38#7, 96#7, 97#7] →
    let sel := cs.sel c
    let annotated : Option Param → Prop := fun p =>
      classify cfg (.channelVoice c (.controlChange n v)) cs = ({ Ann.plain with param := p }, cs)
    (sel.lastSel = some .rpn → sel.rpnMsb = some m → sel.rpnLsb = some l →
      annotated (some { space := .rpn, msb := m, lsb := l })) ∧
    (sel.lastSel = some .nrpn → sel.nrpnMsb = some m → sel.nrpnLsb = some l →
      annotated (some { space := .nrpn, msb := m, lsb := l })) ∧
    (sel.lastSel = none → annotated none) ∧
    (sel.lastSel = some .rpn → sel.rpnMsb = none ∨ sel.rpnLsb = none → annotated none) ∧
    (sel.lastSel = some .nrpn → sel.nrpnMsb = none ∨ sel.nrpnLsb = none → annotated none)

/-- R177: Channel Mode controller 121, whatever its value, clears the selectors of its channel and of no
other; every other Channel Mode controller clears nothing. -/
def Obligations.ChannelResetClearsOneChannel : Prop :=
  ∀ (cfg : Cfg) (cs : ClassifierState) (c c' : Channel) (n v : Data7),
    (classify cfg (.channelMode c 121#7 v) cs).1 = .plain ∧
    (classify cfg (.channelMode c 121#7 v) cs).2.sel c = .empty ∧
    (c' ≠ c → (classify cfg (.channelMode c 121#7 v) cs).2.sel c' = cs.sel c') ∧
    (n ≠ 121#7 → classify cfg (.channelMode c n v) cs = (.plain, cs))

/-- R170: a Note-On is a Note-Off alias exactly when the flag is set and its velocity is 0; a true Note-Off
is never annotated; the classifier state is not written. -/
def Obligations.NoteOnVelocityZeroIsAnAlias : Prop :=
  ∀ (cfg : Cfg) (cs : ClassifierState) (c : Channel) (d1 d2 : Data7),
    classify cfg (.channelVoice c (.noteOn d1 d2)) cs =
      ({ Ann.plain with aliasNoteOff := cfg.velocityZeroIsNoteOff && decide (d2.toNat = 0) }, cs) ∧
    classify cfg (.channelVoice c (.noteOff d1 d2)) cs = (.plain, cs)

/-- R171: controllers 91 and 93 are annotated with the naming flag, and no other message is; where it is
set they are named "Reverb Send Level" and "Chorus Send Level". -/
def Obligations.Controllers91And93AreRenamed : Prop :=
  ∀ (cfg : Cfg) (cs : ClassifierState) (c : Channel) (n v : Data7),
    (n ∈ [91#7, 93#7] →
      classify cfg (.channelVoice c (.controlChange n v)) cs =
        ({ Ann.plain with ccRenamed := cfg.cc9193Renamed }, cs)) ∧
    (∀ m : Msg, (∀ c' k w, m = .channelVoice c' (.controlChange k w) → k ∉ [91#7, 93#7]) →
      (classify cfg m cs).1.ccRenamed = false) ∧
    sendLevelName 91#7 true = some "Reverb Send Level" ∧ sendLevelName 93#7 true = some "Chorus Send Level"

/-- R178: a SysEx whose id is the one byte 0x7E or 0x7F is annotated with it and with the first two
payload bytes, as far as they exist, terminated or not; no other SysEx is; the classifier state is not
written. -/
def Obligations.UniversalSysExIsAnnotated : Prop :=
  ∀ (cfg : Cfg) (cs : ClassifierState) (u a b : Data7) (id rest : List Data7) (terminated : Bool),
    let annotated : List Data7 → Universal → Prop := fun payload w =>
      classify cfg (.systemExclusive [u] payload terminated) cs =
        ({ Ann.plain with universal := some w }, cs)
    (u ∈ [0x7E#7, 0x7F#7] →
      annotated [] { univId := u, subId1 := none, subId2 := none } ∧
      annotated [a] { univId := u, subId1 := some a, subId2 := none } ∧
      annotated (a :: b :: rest) { univId := u, subId1 := some a, subId2 := some b }) ∧
    (id ≠ [0x7E#7] → id ≠ [0x7F#7] →
      classify cfg (.systemExclusive id rest terminated) cs = (.plain, cs))

/-- R179: every other message gets the default annotation and leaves the classifier state alone. -/
def Obligations.OtherMessagesArePlain : Prop :=
  ∀ (cfg : Cfg) (cs : ClassifierState) (c : Channel) (a b : Data7) (k : Common Data7) (r : Realtime)
    (id payload : List Data7) (terminated : Bool),
    (∀ v ∈ [Voice.noteOff a b, .polyPressure a b, .programChange a, .channelPressure a, .pitchBend a b],
      classify cfg (.channelVoice c v) cs = (.plain, cs)) ∧
    (a ∉ [91#7, 93#7, 98#7, 99#7, 100#7, 101#7, 6#7, 38#7, 96#7, 97#7] →
      classify cfg (.channelVoice c (.controlChange a b)) cs = (.plain, cs)) ∧
    (a ≠ 121#7 → classify cfg (.channelMode c a b) cs = (.plain, cs)) ∧
    classify cfg (.systemCommon k) cs = (.plain, cs) ∧
    classify cfg (.systemRealtime r) cs = (.plain, cs) ∧
    (id ∉ [[0x7E#7], [0x7F#7]] → classify cfg (.systemExclusive id payload terminated) cs = (.plain, cs))

/-- R194 to R201: the bytes of the channel messages, for every channel and every data value in range. -/
def Obligations.ChannelMessagesEncode : Prop :=
  ∀ (c : Channel) (a b : Data7),
    let ch : Byte := 0#4 ++ c
    let d1 : Byte := 0#1 ++ a
    let d2 : Byte := 0#1 ++ b
    encodeMessage (.channelVoice ch (.noteOff d1 d2)) = .ok [0x8#4 ++ c, d1, d2] ∧
    encodeMessage (.channelVoice ch (.noteOn d1 d2)) = .ok [0x9#4 ++ c, d1, d2] ∧
    encodeMessage (.channelVoice ch (.polyPressure d1 d2)) = .ok [0xA#4 ++ c, d1, d2] ∧
    encodeMessage (.channelVoice ch (.controlChange d1 d2)) =
      (if a.toNat ≤ 119 then .ok [0xB#4 ++ c, d1, d2] else .err .valueOutOfRange) ∧
    encodeMessage (.channelMode ch d1 d2) =
      (if 120 ≤ a.toNat then .ok [0xB#4 ++ c, d1, d2] else .err .valueOutOfRange) ∧
    encodeMessage (.channelVoice ch (.programChange d1)) = .ok [0xC#4 ++ c, d1] ∧
    encodeMessage (.channelVoice ch (.channelPressure d1)) = .ok [0xD#4 ++ c, d1] ∧
    encodeMessage (.channelVoice ch (.pitchBend d1 d2)) = .ok [0xE#4 ++ c, d1, d2]

/-- R202 to R206: the bytes of the System Common and System Realtime messages. -/
def Obligations.SystemMessagesEncode : Prop :=
  ∀ a b : Data7,
    let d1 : Byte := 0#1 ++ a
    let d2 : Byte := 0#1 ++ b
    encodeMessage (.systemCommon (.mtcQuarterFrame d1)) = .ok [0xF1#8, d1] ∧
    encodeMessage (.systemCommon (.songPositionPointer d1 d2)) = .ok [0xF2#8, d1, d2] ∧
    encodeMessage (.systemCommon (.songSelect d1)) = .ok [0xF3#8, d1] ∧
    encodeMessage (.systemCommon .tuneRequest) = .ok [0xF6#8] ∧
    encodeMessage (.systemRealtime .clock) = .ok [0xF8#8] ∧
    encodeMessage (.systemRealtime .start) = .ok [0xFA#8] ∧
    encodeMessage (.systemRealtime .continueMsg) = .ok [0xFB#8] ∧
    encodeMessage (.systemRealtime .stop) = .ok [0xFC#8] ∧
    encodeMessage (.systemRealtime .activeSensing) = .ok [0xFE#8] ∧
    encodeMessage (.systemRealtime .reset) = .ok [0xFF#8]

/-- R207: a SysEx of a possible shape with its bytes in range is encoded as 0xF0, the id, the payload, 0xF7;
`terminated` is ignored; there is no length limit. -/
def Obligations.SysExEncodesClosed : Prop :=
  ∀ (id payload : List Data7) (terminated : Bool),
    let wire : List Data7 → List Byte := fun l => l.map fun d => 0#1 ++ d
    (id = [] ∧ payload = []) ∨ (∃ d, id = [d] ∧ (d ≠ 0x00#7 ∨ payload = [])) ∨
      (∃ d, id = [0x00#7, d] ∧ payload = []) ∨ (∃ d e, id = [0x00#7, d, e]) →
    encodeMessage (.systemExclusive (wire id) (wire payload) terminated) =
      .ok ([0xF0#8] ++ wire id ++ wire payload ++ [0xF7#8])

/-- R192, R209: a message with a field out of range, or with an id and payload of an impossible shape, is
rejected with `ValueOutOfRange` and no bytes; every other message is encoded. -/
def Obligations.OutOfRangeMessagesAreRejected : Prop :=
  ∀ (c a b : Byte) (id payload : List Byte) (terminated : Bool) (r : Realtime) (m : PortMsg),
    let rejects : PortMsg → Prop := fun m => encodeMessage m = .err .valueOutOfRange
    (rejects m ∨ ∃ bytes, encodeMessage m = .ok bytes) ∧
    (∀ v ∈ [Voice.noteOff a b, .noteOn a b, .polyPressure a b, .pitchBend a b],
      (rejects (.channelVoice c v) ↔ 15 < c.toNat ∨ 127 < a.toNat ∨ 127 < b.toNat)) ∧
    (rejects (.channelVoice c (.controlChange a b)) ↔ 15 < c.toNat ∨ 119 < a.toNat ∨ 127 < b.toNat) ∧
    (∀ v ∈ [Voice.programChange a, .channelPressure a],
      (rejects (.channelVoice c v) ↔ 15 < c.toNat ∨ 127 < a.toNat)) ∧
    (rejects (.channelMode c a b) ↔
      15 < c.toNat ∨ a.toNat < 120 ∨ 127 < a.toNat ∨ 127 < b.toNat) ∧
    (∀ k ∈ [Common.mtcQuarterFrame a, .songSelect a], (rejects (.systemCommon k) ↔ 127 < a.toNat)) ∧
    (rejects (.systemCommon (.songPositionPointer a b)) ↔ 127 < a.toNat ∨ 127 < b.toNat) ∧
    ¬ rejects (.systemCommon .tuneRequest) ∧ ¬ rejects (.systemRealtime r) ∧
    (rejects (.systemExclusive id payload terminated) ↔
      (∃ d ∈ id ++ payload, 127 < d.toNat) ∨
      ¬ ((id = [] ∧ payload = []) ∨
        (∃ d, id = [d] ∧ (d ≠ 0x00#8 ∨ payload = [])) ∨
        (∃ d, id = [0x00#8, d] ∧ payload = []) ∨
        (∃ d e, id = [0x00#8, d, e])))

/-- R193, R190: the bytes of an encoded message begin with a status byte; of the bytes after it only the
0xF7 that ends a SysEx has bit 7 set. -/
def Obligations.EncodedBytesBeginWithTheirStatus : Prop :=
  ∀ (m : PortMsg) (bytes : List Byte), encodeMessage m = .ok bytes →
    ∃ status rest, bytes = status :: rest ∧ 0x80 ≤ status.toNat ∧
      (status ≠ 0xF0#8 → ∀ d ∈ rest, d.toNat ≤ 0x7F) ∧
      (status = 0xF0#8 → ∃ inner, rest = inner ++ [0xF7#8] ∧ ∀ d ∈ inner, d.toNat ≤ 0x7F)

/-- R211: every message the decoder emits can be encoded. -/
def Obligations.EmittedMessagesCanBeEncoded : Prop :=
  ∀ (s t : State) (x : Stream) (i i' : Instance) (j : Instr) (new : List Event) (e : Event) (d : Delivered),
    s.ok = true → s.Live x i → exec j s = .next t → t = s.stepped x i' new → e ∈ new → e.msg = some d →
    ∃ bytes, encodeMessage d.msg.widen = .ok bytes

/-- R210: the bytes of an encoded message, fed one by one, give exactly one event with that message,
stamped with the sample of the first byte, in the step of the last byte, after at most the event that
disposes of a message in progress; the decoder ends in `Idle` (a realtime message leaves `pending`
alone). From a fresh instance, whose `closingEvents` are empty, it is the round trip of R210. -/
def Obligations.DecodeOfEncodedMessageReturnsIt : Prop :=
  ∀ (s : State) (k : Nat) (x : Stream) (i : Instance) (m : PortMsg) (bytes : List Byte)
    (items : List (Sample × Byte)) (rest : List Call) (first last : Sample × Byte),
    s.streams[k]? = some x → x.inst = some i →
    encodeMessage m = .ok bytes → m.closed = true →
    items.map Prod.snd = bytes → items.head? = some first → items.getLast? = some last →
    (∀ it ∈ items, it.1.stream = k ∧ m.payloadLength ≤ it.1.cfg.sysexMaxPayloadBytes) →
    s.calls = feedCalls items ++ rest →
    Reaches (runSteps items.length s) fun t =>
      t.calls = rest ∧ ∃ (m' : Msg) (a : Ann) (i' : Instance), m'.widen = m ∧
        i'.ds.pending = (if m.isRealtime then i.ds.pending else .idle) ∧
        t.streams[k]? = some
          { inst := some i'
            events := x.events ++ (if m.isRealtime then [] else closingEvents first.1 i.ds.pending) ++
              [messageEvent last.1 m' a first.1.now first.1.hw none] }

/-- R103: a step delivers at most two events. -/
def Obligations.StepDeliversAtMostTwoEvents : Prop :=
  ∀ (s t : State) (x : Stream) (i : Instance) (j : Instr), s.Live x i → exec j s = .next t →
    ∃ (i' : Instance) (new : List Event), t = s.stepped x i' new ∧ new.length ≤ 2

/-- R103: two messages in a step exactly when 0xF6 cuts a SysEx that has not overflowed; two errors exactly
when 0xF4 or 0xF5 cuts a message in progress or 0xF7 arrives in `AwaitingDataByte`. -/
def Obligations.TwoMessagesOrTwoErrorsOnlyWhereListed : Prop :=
  ∀ (s t : State) (x : Stream) (i i' : Instance) (j : Instr) (new : List Event), s.Live x i →
    exec j s = .next t → t = s.stepped x i' new →
    messageCount new ≤ 2 ∧ errorCount new ≤ 2 ∧
    (messageCount new = 2 ↔ j = .tuneRequest ∧ ∃ a, i.ds.pending = .inSysEx a ∧ a.ovf = false) ∧
    (errorCount new = 2 ↔
      ((j = .undefF4 ∨ j = .undefF5) ∧ i.ds.pending ≠ .idle) ∨
      (j = .eox ∧ ∃ q, i.ds.pending = .await q))

/-- R41, R220: every event of a step carries a message or an error, and `at` is the `now` of its step. -/
def Obligations.EventsCarryTheNowOfTheirStep : Prop :=
  ∀ (s t : State) (x : Stream) (i i' : Instance) (j : Instr) (new : List Event) (e : Event), s.Live x i →
    exec j s = .next t → t = s.stepped x i' new → e ∈ new →
    e.atTime = s.port.now ∧ (e.msg.isSome = true ∨ e.err.isSome = true)

/-- R58, R34, R37, R241: the frame of every instruction. Nothing but the addressed stream changes: no other
stream, not the configuration or the time inputs, not the host's calls, not the transmitted results; and
the events already delivered stay. -/
def Obligations.InstructionsChangeOnlyTheAddressedStream : Prop :=
  ∀ (s t : State) (j : Instr), exec j s = .next t →
    t.port = s.port ∧ t.calls = s.calls ∧ t.transmitted = s.transmitted ∧
    t.streams.length = s.streams.length ∧
    (∀ k, k ≠ s.port.stream → t.streams[k]? = s.streams[k]?) ∧
    ∀ x i, s.Live x i → ∃ (i' : Instance) (new : List Event),
      t.streams[s.port.stream]? = some { inst := some i', events := x.events ++ new }

/-- R101, R180, R58: what a byte does to its stream is a function of the instance, the configuration, the
byte and the two time inputs, and of nothing else: two machines that agree on these get the same new
instance and the same events. -/
def Obligations.StepIsAFunctionOfInstanceAndInputs : Prop :=
  ∀ (s s' t t' : State) (x x' : Stream) (i : Instance) (j : Instr), s.Live x i → s'.Live x' i →
    s.port.cfg = s'.port.cfg → s.port.now = s'.port.now → s.port.hw = s'.port.hw →
    exec j s = .next t → exec j s' = .next t' →
    ∃ (i' : Instance) (new : List Event), t = s.stepped x i' new ∧ t' = s'.stepped x' i' new

/-- R16: running status is set to its own byte by every channel status byte, cleared by every status byte
in [0xF0, 0xF7], and left alone by data bytes and realtime bytes. -/
def Obligations.RunningStatusFollowsTheStatusBytes : Prop :=
  ∀ (s t : State) (x y : Stream) (i i' : Instance) (j : Instr), s.ok = true → s.Live x i →
    exec j s = .next t → t.Live y i' →
    (j.isChannelStatus = true → i'.ds.runningStatus = (encode j).head?) ∧
    (j.isCommonStatus = true ∨ j = .eox → i'.ds.runningStatus = none) ∧
    (j.isRealtime = true ∨ (∃ v, j = .data v) → i'.ds.runningStatus = i.ds.runningStatus)

/-- R179, R155: only a data byte can change the classifier state. -/
def Obligations.StatusBytesLeaveTheClassifierAlone : Prop :=
  ∀ (s t : State) (x y : Stream) (i i' : Instance) (j : Instr), s.Live x i → exec j s = .next t →
    t.Live y i' → (∀ v, j ≠ .data v) → i'.cs = i.cs

/-- R74, R220, R221: a realtime byte inside a Note-On, between the status byte and data byte 1 or between the
two data bytes, is delivered at once, and the Note-On is decoded as if the byte were absent, with the
sample of its status byte. -/
def Obligations.InterleavedRealtimeLeavesTheMessage : Prop :=
  ∀ (s : State) (k : Nat) (x : Stream) (i : Instance) (c : Channel) (r : Realtime) (a b : Data7)
    (p0 p1 p2 pr : Sample) (rest : List Call),
    s.streams[k]? = some x → x.inst = some i → i.ds.pending = .idle →
    (∀ p ∈ [p0, p1, p2, pr], p.stream = k) →
    let status := (p0, 0x9#4 ++ c)
    let data1 := (p1, 0#1 ++ a)
    let data2 := (p2, 0#1 ++ b)
    let realtime := (pr, r.byte)
    s.calls = feedCalls [status, realtime, data1, data2] ++ rest ∨
      s.calls = feedCalls [status, data1, realtime, data2] ++ rest →
    Reaches (runSteps 4 s) fun t =>
      t.calls = rest ∧ t.streams[k]? = some
        { inst := some { i with ds := { runningStatus := some (0x9#4 ++ c), pending := .idle } }
          events := x.events ++
            [messageEvent pr (.systemRealtime r) .plain pr.now pr.hw none,
             messageEvent p2 (.channelVoice c (.noteOn a b))
               { Ann.plain with aliasNoteOff := p2.cfg.velocityZeroIsNoteOff && decide (b.toNat = 0) }
               p0.now p0.hw none] }

/-- R261: `open` adds an instance with empty `DS` and `CS` and produces no event; nothing else changes. That
the new stream stands at the end of the list of streams is the model's choice (log 4). -/
def Obligations.OpenAddsAnEmptyInstance : Prop :=
  ∀ (s : State) (rest : List Call), s.calls = .command .openStream :: rest →
    step s = .next { s with
      calls := rest
      streams := s.streams ++
        [{ inst := some { ds := { runningStatus := none, pending := .idle }, cs := .fresh }, events := [] }] }

/-- R262: `resync` sets the instance back to the state `open` creates and produces no event, whatever was
in progress; nothing else changes. -/
def Obligations.ResyncEmptiesTheInstance : Prop :=
  ∀ (s : State) (k : Nat) (x : Stream) (i : Instance) (rest : List Call),
    s.calls = .command (.resync k) :: rest → s.streams[k]? = some x → x.inst = some i →
    step s = .next { s with
      calls := rest
      streams := s.streams.set k
        { inst := some { ds := { runningStatus := none, pending := .idle }, cs := .fresh }
          events := x.events } }

/-- R263, R277: `close` ends the instance without an event; after it a `feed` or `resync` on it has no step,
which the model shows as the fault `noInstance` (log 8). -/
def Obligations.CloseEndsTheInstance : Prop :=
  ∀ (s : State) (k : Nat) (x : Stream) (i : Instance) (rest : List Call),
    s.calls = .command (.close k) :: rest → s.streams[k]? = some x → x.inst = some i →
    let t : State := { s with calls := rest, streams := s.streams.set k { inst := none, events := x.events } }
    step s = .next t ∧
    ∀ c, (c = .command (.resync k) ∨ ∃ p b, c = .feed p b ∧ p.stream = k) →
      step { t with calls := [c] } = .fault .noInstance

/-- R208, R190: an `encode` call adds its result to the transmit side and changes nothing else. -/
def Obligations.EncodeCallTransmitsItsResult : Prop :=
  ∀ (s : State) (m : PortMsg) (rest : List Call), s.calls = .command (.encode m) :: rest →
    step s = .next { s with calls := rest, transmitted := s.transmitted ++ [encodeMessage m] }

/-- R76, R50, R201: the 14-bit value of a Pitch Bend or Song Position Pointer is `lsb + 128 * msb`, in
[0, 16383], and splitting it gives the two bytes back; the Pitch Bend offset is that less 0x2000, in
[-8192, 8191]; every offset in that range has data bytes, and no other. -/
def Obligations.FourteenBitViewsAreExact : Prop :=
  (∀ (c : Channel) (l m : Data7), value14 l m = l.toNat + 128 * m.toNat ∧ value14 l m ≤ 16383 ∧
    Message.value14 (.channelVoice c (.pitchBend l m)) = some (value14 l m) ∧
    Message.value14 (.systemCommon (.songPositionPointer l m)) = some (value14 l m) ∧
    splitValue14 (value14 l m) = (l, m) ∧
    bend l m = (l.toNat + 128 * m.toNat : Int) - 8192 ∧ -8192 ≤ bend l m ∧ bend l m ≤ 8191) ∧
  (∀ o : Int, -8192 ≤ o → o ≤ 8191 → ∃ l m, splitBend o = some (l, m) ∧ bend l m = o) ∧
  (∀ o : Int, o < -8192 ∨ 8191 < o → splitBend o = none)

/-- R58: two steps on different streams can be taken in either order: each stream ends with the same
instance and the same events. -/
def Obligations.StepsOfDifferentStreamsCommute : Prop :=
  ∀ (s t u t' u' : State) (p q : Sample) (j k : Instr), p.stream ≠ q.stream →
    exec j { s with port := p } = .next t → exec k { t with port := q } = .next u →
    exec k { s with port := q } = .next t' → exec j { t' with port := p } = .next u' →
    u.streams = u'.streams
end

