-- ==== Sys2Proof/Laws/State.lean ====
section
/-! SUPPORT. One lemma per field per update of the state, the working copy and the classifier state. -/

namespace Sys2Proof.Machine

@[simp] theorem Work.setPending_ds (w : Work) (p : Pending) :
    (w.setPending p).ds = { w.ds with pending := p } := rfl
@[simp] theorem Work.setPending_cs (w : Work) (p : Pending) : (w.setPending p).cs = w.cs := rfl
@[simp] theorem Work.setPending_events (w : Work) (p : Pending) : (w.setPending p).events = w.events := rfl
@[simp] theorem Work.setRunning_ds (w : Work) (r : Option Byte) :
    (w.setRunning r).ds = { w.ds with runningStatus := r } := rfl
@[simp] theorem Work.setRunning_cs (w : Work) (r : Option Byte) : (w.setRunning r).cs = w.cs := rfl
@[simp] theorem Work.setRunning_events (w : Work) (r : Option Byte) : (w.setRunning r).events = w.events := rfl

@[simp] theorem Instance.work_ds (i : Instance) : i.work.ds = i.ds := rfl
@[simp] theorem Instance.work_cs (i : Instance) : i.work.cs = i.cs := rfl
@[simp] theorem Instance.work_events (i : Instance) : i.work.events = [] := rfl

@[simp] theorem Stream.deliver_inst (x : Stream) (w : Work) :
    (x.deliver w).inst = some { ds := w.ds, cs := w.cs } := rfl
@[simp] theorem Stream.deliver_events (x : Stream) (w : Work) :
    (x.deliver w).events = x.events ++ w.events := rfl

@[simp] theorem State.accept_port (s : State) (p : Sample) (r : List Call) : (s.accept p r).port = p := rfl
@[simp] theorem State.accept_calls (s : State) (p : Sample) (r : List Call) : (s.accept p r).calls = r := rfl
@[simp] theorem State.accept_streams (s : State) (p : Sample) (r : List Call) :
    (s.accept p r).streams = s.streams := rfl
@[simp] theorem State.accept_transmitted (s : State) (p : Sample) (r : List Call) :
    (s.accept p r).transmitted = s.transmitted := rfl

@[simp] theorem State.stepped_port (s : State) (x : Stream) (i : Instance) (e : List Event) :
    (s.stepped x i e).port = s.port := rfl
@[simp] theorem State.stepped_calls (s : State) (x : Stream) (i : Instance) (e : List Event) :
    (s.stepped x i e).calls = s.calls := rfl
@[simp] theorem State.stepped_transmitted (s : State) (x : Stream) (i : Instance) (e : List Event) :
    (s.stepped x i e).transmitted = s.transmitted := rfl
@[simp] theorem State.stepped_streams (s : State) (x : Stream) (i : Instance) (e : List Event) :
    (s.stepped x i e).streams =
      s.streams.set s.port.stream { inst := some i, events := x.events ++ e } := rfl

/-- The addressed stream after a step. -/
theorem State.stepped_addressed {s : State} {x : Stream} {i : Instance} (h : s.Live x i) (i' : Instance)
    (e : List Event) :
    (s.stepped x i' e).streams[s.port.stream]? = some { inst := some i', events := x.events ++ e } := by
  obtain ⟨hlt, -⟩ := List.getElem?_eq_some_iff.mp h.1
  simp [hlt]

/-- Every other stream after a step. -/
theorem State.stepped_other (s : State) (x : Stream) (i : Instance) (e : List Event) {k : Nat}
    (h : k ≠ s.port.stream) : (s.stepped x i e).streams[k]? = s.streams[k]? := by
  simp [Ne.symm h]

/-- A step leaves a live stream live, with its new instance. -/
theorem State.stepped_live {s : State} {x : Stream} {i : Instance} (h : s.Live x i) (i' : Instance)
    (e : List Event) :
    (s.stepped x i' e).Live { inst := some i', events := x.events ++ e } i' :=
  ⟨State.stepped_addressed h i' e, rfl⟩

/-- A stream and its instance are determined by the state. -/
theorem State.Live.unique {s : State} {x y : Stream} {i j : Instance} (h : s.Live x i) (h' : s.Live y j) :
    x = y ∧ i = j := by
  have hxy : x = y := Option.some.inj (h.1.symm.trans h'.1)
  subst hxy
  exact ⟨rfl, Option.some.inj (h.2.symm.trans h'.2)⟩

/-- The new instance and the new events of a step are determined by its end state. -/
theorem State.stepped_injective {s : State} {x : Stream} {i a b : Instance} {e f : List Event}
    (h : s.Live x i) (heq : s.stepped x a e = s.stepped x b f) : a = b ∧ e = f := by
  have hx := congrArg (fun t : State => t.streams[s.port.stream]?) heq
  simp only [State.stepped_addressed h] at hx
  simpa using hx

@[simp] theorem ClassifierState.sel_setSel_self (cs : ClassifierState) (c : Channel) (x : ChanSel) :
    (cs.setSel c x).sel c = x := by
  simp [ClassifierState.sel, ClassifierState.setSel]

theorem ClassifierState.sel_setSel_of_ne (cs : ClassifierState) {c c' : Channel} (x : ChanSel) (h : c' ≠ c) :
    (cs.setSel c x).sel c' = cs.sel c' := by
  have hne : c.toNat ≠ c'.toNat := fun e => h (BitVec.eq_of_toNat_eq e.symm)
  simp [ClassifierState.sel, ClassifierState.setSel, hne]

end Sys2Proof.Machine
end

