-- ==== Sys2Proof/Laws/Accumulator.lean ====
section
/-! SUPPORT. The SysEx accumulator, the memory of this hardware (spec/20_memory.md R47): every operation
on it keeps its form `SysExAcc.wf` (R20), and what an append adds is read back in place. -/

namespace Sys2Proof.Machine

/-- `IdNeed` is 1 or 3 (R132). -/
theorem idNeed_cases (id : List Data7) : idNeed id = 1 ∨ idNeed id = 3 := by
  cases id with
  | nil => exact .inl rfl
  | cons b rest => by_cases h : b = 0x00#7 <;> simp [idNeed, h]

/-- No id needs more than `IDMAX` bytes (R10, R132). -/
theorem idNeed_le_maxIdLength (id : List Data7) : idNeed id ≤ Config.maxIdLength := by
  have h : Config.maxIdLength = 3 := rfl
  rcases idNeed_cases id with h' | h' <;> omega

/-- The id is incomplete when it is empty, or begins with 0x00 and has fewer than three bytes (R71). -/
theorem idIncomplete_iff (id : List Data7) :
    id.length < idNeed id ↔ id = [] ∨ (id.head? = some 0x00#7 ∧ id.length < 3) := by
  cases id with
  | nil => simp [idNeed]
  | cons b rest => by_cases h : b = 0x00#7 <;> simp [idNeed, h]

/-- A byte added to a non-empty id does not change how many it needs. -/
theorem idNeed_append (id : List Data7) (b : Data7) (h : id ≠ []) : idNeed (id ++ [b]) = idNeed id := by
  cases id with
  | nil => exact absurd rfl h
  | cons d rest => rfl

/-- While the id is incomplete there is room for its next byte (R47: at most `IDMAX`). -/
theorem SysExAcc.appendId_eq (a : SysExAcc) (b : Data7) (h : a.id.length < idNeed a.id) :
    a.appendId b = { a with id := a.id ++ [b] } := by
  have := idNeed_le_maxIdLength a.id
  simp [SysExAcc.appendId, Nat.lt_of_lt_of_le h this]

/-- The last id byte reads back. -/
theorem SysExAcc.appendId_getLast (a : SysExAcc) (b : Data7) (h : a.id.length < idNeed a.id) :
    (a.appendId b).id.getLast? = some b := by
  simp [SysExAcc.appendId_eq a b h]

/-- The last payload byte reads back. -/
theorem SysExAcc.appendPayload_getLast (a : SysExAcc) (b : Data7) :
    (a.appendPayload b).payload.getLast? = some b := by
  simp [SysExAcc.appendPayload]

/-- The earlier payload bytes stay in place. -/
theorem SysExAcc.appendPayload_earlier (a : SysExAcc) (b : Data7) (k : Nat) (h : k < a.payload.length) :
    (a.appendPayload b).payload[k]? = a.payload[k]? := by
  simp [SysExAcc.appendPayload, List.getElem?_append_left h]

/-- The accumulator of `SysExStart` has the form (R130). -/
theorem SysExAcc.wf_fresh (t : Time) (h : Option HwTime) :
    SysExAcc.wf { id := [], payload := [], ovf := false, t0 := t, h0 := h } = true := rfl

/-- `AccAppendId` keeps the form (R131). -/
theorem SysExAcc.wf_appendId {a : SysExAcc} (b : Data7) (hw : a.wf = true) (ho : a.ovf = false)
    (h : a.id.length < idNeed a.id) : (a.appendId b).wf = true := by
  rw [SysExAcc.appendId_eq a b h]
  have hp : a.payload = [] := by
    simp only [SysExAcc.wf, idComplete, Bool.and_eq_true, Bool.or_eq_true, beq_iff_eq] at hw
    rcases hw.1.2 with hp | hp
    · simpa using hp
    · omega
  have hl : (a.id ++ [b]).length ≤ idNeed (a.id ++ [b]) := by
    by_cases hn : a.id = []
    · rcases idNeed_cases (a.id ++ [b]) with h' | h' <;> simp [hn] at h' ⊢ <;> omega
    · rw [idNeed_append _ _ hn, List.length_append]
      exact h
  simp only [SysExAcc.wf, hp, ho, decide_eq_true hl]
  rfl

/-- `AccAppendPayload` keeps the form once the id is complete (R131). -/
theorem SysExAcc.wf_appendPayload {a : SysExAcc} (b : Data7) (hw : a.wf = true) (ho : a.ovf = false)
    (h : ¬ a.id.length < idNeed a.id) : (a.appendPayload b).wf = true := by
  simp only [SysExAcc.wf, Bool.and_eq_true, decide_eq_true_eq] at hw
  have he : a.id.length = idNeed a.id := by omega
  simp [SysExAcc.wf, SysExAcc.appendPayload, idComplete, he, ho]

/-- Discarding keeps the form (R136). -/
theorem SysExAcc.wf_discard (a : SysExAcc) : a.discard.wf = true := rfl

end Sys2Proof.Machine
end

