-- ==== Sys2Proof/Laws/Classifier.lean ====
section
/-! SUPPORT. What the classifier does to its state (spec/44_classifier.md R169, R173, R174, R177). -/

namespace Sys2Proof.Machine

/-- The pair of a space is not at (127, 127) (R26). -/
def ChanSel.pairOk (x : ChanSel) : Space → Bool
  | .rpn => !(x.rpnMsb == some 127#7 && x.rpnLsb == some 127#7)
  | .nrpn => !(x.nrpnMsb == some 127#7 && x.nrpnLsb == some 127#7)

theorem ChanSel.ok_iff (x : ChanSel) : x.ok = true ↔ x.pairOk .rpn = true ∧ x.pairOk .nrpn = true := by
  simp [ChanSel.ok, ChanSel.pairOk]

/-- `NullCheck` leaves its pair not at (127, 127), and the other pair alone (R174). -/
theorem ChanSel.pairOk_nullCheck (x : ChanSel) (space s : Space) :
    (x.nullCheck space).pairOk s = (decide (space = s) || x.pairOk s) := by
  cases space <;> cases s <;> simp only [ChanSel.nullCheck] <;> split <;> simp_all [ChanSel.pairOk, imp_iff_not_or]

/-- A write leaves the pair of the other space alone (R173). -/
theorem ChanSel.pairOk_write (x : ChanSel) (space s : Space) (half : Half) (v : Data7) (h : space ≠ s) :
    (x.write space half v).pairOk s = x.pairOk s := by
  cases space <;> cases s <;> cases half <;> simp_all [ChanSel.write, ChanSel.pairOk]

/-- A selector write leaves no pair at (127, 127) (R26, R173, R174). -/
theorem ChanSel.ok_write (x : ChanSel) (space : Space) (half : Half) (v : Data7) (h : x.ok = true) :
    ((x.write space half v).nullCheck space).ok = true := by
  rw [ChanSel.ok_iff] at h ⊢
  cases space <;> simp [ChanSel.pairOk_nullCheck, ChanSel.pairOk_write, h]

/-- The pair `last_sel` names is the active parameter when both its halves are there (R26). -/
theorem ChanSel.active_rpn {x : ChanSel} {m l : Data7} (h : x.lastSel = some .rpn) (hm : x.rpnMsb = some m)
    (hl : x.rpnLsb = some l) : x.active = some { space := .rpn, msb := m, lsb := l } := by
  simp [ChanSel.active, h, hm, hl]

theorem ChanSel.active_nrpn {x : ChanSel} {m l : Data7} (h : x.lastSel = some .nrpn) (hm : x.nrpnMsb = some m)
    (hl : x.nrpnLsb = some l) : x.active = some { space := .nrpn, msb := m, lsb := l } := by
  simp [ChanSel.active, h, hm, hl]

/-- Nothing is active while nothing was selected, or while the named pair is incomplete (R26). -/
theorem ChanSel.active_unselected {x : ChanSel} (h : x.lastSel = none) : x.active = none := by
  simp [ChanSel.active, h]

theorem ChanSel.active_rpn_incomplete {x : ChanSel} (h : x.lastSel = some .rpn)
    (hx : x.rpnMsb = none ∨ x.rpnLsb = none) : x.active = none := by
  rcases hx with hx | hx <;> simp [ChanSel.active, h, hx]

theorem ChanSel.active_nrpn_incomplete {x : ChanSel} (h : x.lastSel = some .nrpn)
    (hx : x.nrpnMsb = none ∨ x.nrpnLsb = none) : x.active = none := by
  rcases hx with hx | hx <;> simp [ChanSel.active, h, hx]

/-- Data entry is annotated with the active parameter (R176). -/
theorem classify_dataEntry (cfg : Cfg) (cs : ClassifierState) (c : Channel) (n v : Data7)
    (h : n ∈ [6#7, 38#7, 96#7, 97#7]) :
    classify cfg (.channelVoice c (.controlChange n v)) cs =
      ({ Ann.plain with param := (cs.sel c).active }, cs) := by
  simp only [List.mem_cons, List.not_mem_nil, or_false] at h
  rcases h with rfl | rfl | rfl | rfl <;> rfl

/-- Writing one channel's record keeps `ClassifierState.ok`. -/
theorem ClassifierState.ok_setSel {cs : ClassifierState} (c : Channel) {x : ChanSel} (h : cs.ok = true)
    (hx : x.ok = true) : (cs.setSel c x).ok = true := by
  simp only [ClassifierState.ok, ClassifierState.setSel, Vector.toList_set, List.all_eq_true] at *
  intro y hy
  rcases List.mem_or_eq_of_mem_set hy with hy | rfl
  · exact h y hy
  · exact hx

/-- Every channel's record is as the rules leave it. -/
theorem ClassifierState.ok_sel {cs : ClassifierState} (c : Channel) (h : cs.ok = true) :
    (cs.sel c).ok = true := by
  simp only [ClassifierState.ok, List.all_eq_true] at h
  exact h _ (by simp [ClassifierState.sel])

/-- Everything the classifier can do to its state: nothing, one selector write on the message's channel,
or one channel reset (R172, R177). -/
theorem classify_cs_cases (cfg : Cfg) (m : Msg) (cs : ClassifierState) :
    (classify cfg m cs).2 = cs ∨
    (∃ c space half v, (classify cfg m cs).2 = selectorWrite cs c space half v) ∨
    (∃ c, (classify cfg m cs).2 = channelReset cs c) := by
  cases m with
  | channelVoice c v =>
    cases v with
    | controlChange n d =>
      simp only [classify, classifyControl]
      repeat' split
      all_goals first
        | exact .inl rfl
        | exact .inr (.inl ⟨_, _, _, _, rfl⟩)
    | _ => exact .inl rfl
  | channelMode c n v =>
    simp only [classify]
    split
    · exact .inr (.inr ⟨_, rfl⟩)
    · exact .inl rfl
  | systemCommon k => exact .inl rfl
  | systemRealtime k => exact .inl rfl
  | systemExclusive id payload t => exact .inl rfl

/-- The classifier keeps its state as the rules leave it (R26). -/
theorem classify_ok (cfg : Cfg) (m : Msg) {cs : ClassifierState} (h : cs.ok = true) :
    (classify cfg m cs).2.ok = true := by
  rcases classify_cs_cases cfg m cs with e | ⟨c, space, half, v, e⟩ | ⟨c, e⟩ <;> rw [e]
  · exact h
  · exact ClassifierState.ok_setSel c h (ChanSel.ok_write _ _ _ _ (ClassifierState.ok_sel c h))
  · exact ClassifierState.ok_setSel c h rfl

end Sys2Proof.Machine
end

