-- ==== Sys2Proof/Laws/Decode.lean ====
section
/-! SUPPORT. Small lemmas of the byte-field helpers, the decoder, the encoder and `needOf`. -/

namespace Sys2Proof

/-- The bits of a channel status byte as the spec writes them: kind nibble, then channel (R65, R67). -/
theorem append_eq_statusByte (k c : BitVec 4) : k ++ c = statusByte k c := rfl

/-- The bits of a data byte as the spec writes them: a 0, then the value (R63, R67). -/
theorem append_eq_dataByte (v : Data7) : 0#1 ++ v = dataByte v := rfl

@[simp] theorem kindNibble_statusByte (k c : BitVec 4) : kindNibble (statusByte k c) = k := by
  revert k c; decide

@[simp] theorem channelOf_statusByte (k c : BitVec 4) : channelOf (statusByte k c) = c := by
  revert k c; decide

/-- A status byte is put together from its nibbles (R65). -/
theorem statusByte_kindNibble (b : Byte) : statusByte (kindNibble b) (channelOf b) = b := by
  revert b; decide

@[simp] theorem dataOf_dataByte (v : Data7) : dataOf (dataByte v) = v := by
  revert v; decide

/-- A byte with bit 7 clear is the wire byte of its value (R63). -/
theorem dataByte_dataOf (b : Byte) (h : isStatus b = false) : dataByte (dataOf b) = b := by
  revert b; decide

@[simp] theorem isStatus_dataByte (v : Data7) : isStatus (dataByte v) = false := by
  revert v; decide

@[simp] theorem isRealtime_dataByte (v : Data7) : isRealtime (dataByte v) = false := by
  revert v; decide

@[simp] theorem dataByte_toNat (v : Data7) : (dataByte v).toNat = v.toNat := by
  revert v; decide

theorem dataByte_injective {v w : Data7} (h : dataByte v = dataByte w) : v = w := by
  rw [← dataOf_dataByte v, h, dataOf_dataByte]

/-- `match2` of the table says that the data byte is in 120..127 (R77, R84). -/
theorem isModeController_dataByte (v : Data7) :
    isModeController (dataByte v) = (v.extractLsb' 3 4 == 0b1111#4) := by
  revert v; decide

/-- The Channel Mode test is the range 120..127 (R77). -/
theorem modeController_iff (v : Data7) : (v.extractLsb' 3 4 == 0b1111#4) = decide (120 ≤ v.toNat) := by
  revert v; decide

/-- A wire byte that passes `match2` has bit 7 clear. -/
theorem dataByte_of_isModeController (b : Byte) (h : isModeController b = true) :
    dataByte (dataOf b) = b ∧ ((dataOf b).extractLsb' 3 4 == 0b1111#4) = true := by
  revert b; decide

@[simp] theorem nextOfMessage_dataByte (v : Data7) (rest : List Byte) :
    nextOfMessage (dataByte v :: rest) = some (dataByte v) := by
  simp [nextOfMessage]

@[simp] theorem decode_cons (b : Byte) (rest : List Byte) :
    decode (b :: rest) = .instr (decodeByte b (nextOfMessage rest)) rest := rfl

@[simp] theorem decodeByte_dataByte (v : Data7) (next : Option Byte) :
    decodeByte (dataByte v) next = .data v := by
  have h : decide (0xF0#8 ≤ dataByte v) = false := by revert v; decide
  simp [decodeByte, of_decide_eq_false h]

/-- A status byte of a channel kind is no realtime and no System Common byte, and has bit 7 set. -/
theorem statusByte_class (k c : BitVec 4) (h : k ∈ [0x8#4, 0x9#4, 0xA#4, 0xB#4, 0xC#4, 0xD#4, 0xE#4]) :
    isRealtime (statusByte k c) = false ∧ ¬ 0xF0#8 ≤ statusByte k c ∧ isStatus (statusByte k c) = true := by
  revert k c; decide

/-- Channel status bytes decode by kind nibble (R66). -/
theorem decodeByte_statusByte (k c : BitVec 4) (next : Option Byte)
    (h : k ∈ [0x8#4, 0x9#4, 0xA#4, 0xB#4, 0xC#4, 0xD#4, 0xE#4]) :
    decodeByte (statusByte k c) next = decodeChannel (statusByte k c) next := by
  obtain ⟨h1, h2, h3⟩ := statusByte_class k c h
  simp [decodeByte, h1, h2, h3]

/-- The bytes after 0xBn only choose between its two rows (R84). -/
theorem decodeByte_control (c : Channel) (next : Option Byte) :
    decodeByte (statusByte 0xB#4 c) next = decodeControl c next := by
  rw [decodeByte_statusByte _ _ _ (by simp)]
  simp [decodeChannel]

/-- No other byte's instruction depends on the bytes after it. -/
theorem decodeByte_of_not_control (b : Byte) (next : Option Byte) (h : kindNibble b ≠ 0xB#4) :
    decodeByte b next = decodeByte b none := by
  simp [decodeByte, decodeChannel, h]

/-- The two rows of 0xBn. -/
theorem decodeControl_cases (c : Channel) (next : Option Byte) :
    decodeControl c next = .controlChange c ∨
      ∃ n : Data7, decodeControl c next = .channelMode c n ∧ (n.extractLsb' 3 4 == 0b1111#4) = true := by
  unfold decodeControl
  split
  · rename_i d1
    split
    · rename_i h
      exact .inr ⟨_, rfl, (dataByte_of_isModeController d1 h).2⟩
    · exact .inl rfl
  · exact .inl rfl

@[simp] theorem needOf_noteOff (c : Channel) : needOf (statusByte 0x8#4 c) = some 2 := by simp [needOf]
@[simp] theorem needOf_noteOn (c : Channel) : needOf (statusByte 0x9#4 c) = some 2 := by simp [needOf]
@[simp] theorem needOf_polyPressure (c : Channel) : needOf (statusByte 0xA#4 c) = some 2 := by simp [needOf]
@[simp] theorem needOf_control (c : Channel) : needOf (statusByte 0xB#4 c) = some 2 := by simp [needOf]
@[simp] theorem needOf_programChange (c : Channel) : needOf (statusByte 0xC#4 c) = some 1 := by simp [needOf]
@[simp] theorem needOf_channelPressure (c : Channel) : needOf (statusByte 0xD#4 c) = some 1 := by simp [needOf]
@[simp] theorem needOf_pitchBend (c : Channel) : needOf (statusByte 0xE#4 c) = some 2 := by simp [needOf]

/-- The statuses a `Partial` or a running status can hold, by `NeedOf` (R19, R100). -/
theorem needOf_cases (s : Byte) (n : Nat) (h : needOf s = some n) :
    (∃ c, s = statusByte 0x8#4 c ∧ n = 2) ∨ (∃ c, s = statusByte 0x9#4 c ∧ n = 2) ∨
    (∃ c, s = statusByte 0xA#4 c ∧ n = 2) ∨ (∃ c, s = statusByte 0xB#4 c ∧ n = 2) ∨
    (∃ c, s = statusByte 0xC#4 c ∧ n = 1) ∨ (∃ c, s = statusByte 0xD#4 c ∧ n = 1) ∨
    (∃ c, s = statusByte 0xE#4 c ∧ n = 2) ∨ (s = 0xF1#8 ∧ n = 1) ∨ (s = 0xF2#8 ∧ n = 2) ∨
    (s = 0xF3#8 ∧ n = 1) ∨ (s = 0xF6#8 ∧ n = 0) := by
  have build (k : BitVec 4) (hk : kindNibble s = k) : s = statusByte k (channelOf s) := by
    rw [← hk, statusByte_kindNibble]
  unfold needOf at h
  split at h <;> rename_i h8
  · exact .inl ⟨_, build _ h8, by simpa using h.symm⟩
  split at h <;> rename_i h9
  · exact .inr <| .inl ⟨_, build _ h9, by simpa using h.symm⟩
  split at h <;> rename_i hA
  · exact .inr <| .inr <| .inl ⟨_, build _ hA, by simpa using h.symm⟩
  split at h <;> rename_i hB
  · exact .inr <| .inr <| .inr <| .inl ⟨_, build _ hB, by simpa using h.symm⟩
  split at h <;> rename_i hC
  · exact .inr <| .inr <| .inr <| .inr <| .inl ⟨_, build _ hC, by simpa using h.symm⟩
  split at h <;> rename_i hD
  · exact .inr <| .inr <| .inr <| .inr <| .inr <| .inl ⟨_, build _ hD, by simpa using h.symm⟩
  split at h <;> rename_i hE
  · exact .inr <| .inr <| .inr <| .inr <| .inr <| .inr <| .inl ⟨_, build _ hE, by simpa using h.symm⟩
  split at h <;> rename_i h1
  · exact .inr <| .inr <| .inr <| .inr <| .inr <| .inr <| .inr <| .inl ⟨h1, by simpa using h.symm⟩
  split at h <;> rename_i h2
  · exact .inr <| .inr <| .inr <| .inr <| .inr <| .inr <| .inr <| .inr <| .inl ⟨h2, by simpa using h.symm⟩
  split at h <;> rename_i h3
  · exact .inr <| .inr <| .inr <| .inr <| .inr <| .inr <| .inr <| .inr <| .inr <| .inl
      ⟨h3, by simpa using h.symm⟩
  split at h <;> rename_i h6
  · exact .inr <| .inr <| .inr <| .inr <| .inr <| .inr <| .inr <| .inr <| .inr <| .inr
      ⟨h6, by simpa using h.symm⟩
  · simp at h

/-- Every instruction's words begin with its own byte; only CHANNEL_MODE has a second word. -/
theorem encode_ne_nil (i : Instr) : encode i ≠ [] := by cases i <;> simp [encode]

end Sys2Proof
end

