-- ==== Sys2Proof/Laws/Operands.lean ====
section
/-! SUPPORT. What `mkMsg` builds for each status (spec/40_decoder_step.md R99), and the 14-bit views. -/

namespace Sys2Proof.Machine

variable (c : Channel) (a b : Data7) (d : Option Data7)

@[simp] theorem mkMsg_noteOff : mkMsg (statusByte 0x8#4 c) a (some b) = some (.channelVoice c (.noteOff a b)) := by
  simp [mkMsg]
@[simp] theorem mkMsg_noteOn : mkMsg (statusByte 0x9#4 c) a (some b) = some (.channelVoice c (.noteOn a b)) := by
  simp [mkMsg]
@[simp] theorem mkMsg_polyPressure :
    mkMsg (statusByte 0xA#4 c) a (some b) = some (.channelVoice c (.polyPressure a b)) := by
  simp [mkMsg]
@[simp] theorem mkMsg_control : mkMsg (statusByte 0xB#4 c) a (some b) =
    some (if 120#7 ≤ a then .channelMode c a b else .channelVoice c (.controlChange a b)) := by
  simp [mkMsg]
@[simp] theorem mkMsg_programChange :
    mkMsg (statusByte 0xC#4 c) a d = some (.channelVoice c (.programChange a)) := by
  simp [mkMsg]
@[simp] theorem mkMsg_channelPressure :
    mkMsg (statusByte 0xD#4 c) a d = some (.channelVoice c (.channelPressure a)) := by
  simp [mkMsg]
@[simp] theorem mkMsg_pitchBend :
    mkMsg (statusByte 0xE#4 c) a (some b) = some (.channelVoice c (.pitchBend a b)) := by
  simp [mkMsg]
@[simp] theorem mkMsg_mtcQuarterFrame : mkMsg 0xF1#8 a d = some (.systemCommon (.mtcQuarterFrame a)) := by
  simp [mkMsg, kindNibble]
@[simp] theorem mkMsg_songPosition :
    mkMsg 0xF2#8 a (some b) = some (.systemCommon (.songPositionPointer a b)) := by
  simp [mkMsg, kindNibble]
@[simp] theorem mkMsg_songSelect : mkMsg 0xF3#8 a d = some (.systemCommon (.songSelect a)) := by
  simp [mkMsg, kindNibble]

/-- `MkMsg` is defined on every status of one data byte, and on every status of two with both (R99). -/
theorem mkMsg_isSome (s : Byte) (n : Nat) (h : needOf s = some n) (hd : n = 1 ∨ (n = 2 ∧ d.isSome)) :
    (mkMsg s a d).isSome := by
  have h' := needOf_cases s n h
  rcases hd with rfl | ⟨rfl, hd⟩
  · rcases h' with ⟨c, rfl, h1⟩ | ⟨c, rfl, h1⟩ | ⟨c, rfl, h1⟩ | ⟨c, rfl, h1⟩ | ⟨c, rfl, -⟩ | ⟨c, rfl, -⟩ |
      ⟨c, rfl, h1⟩ | ⟨rfl, -⟩ | ⟨rfl, h1⟩ | ⟨rfl, -⟩ | ⟨rfl, h1⟩ <;> first | omega | simp
  · obtain ⟨e, rfl⟩ := Option.isSome_iff_exists.mp hd
    rcases h' with ⟨c, rfl, -⟩ | ⟨c, rfl, -⟩ | ⟨c, rfl, -⟩ | ⟨c, rfl, -⟩ | ⟨c, rfl, -⟩ | ⟨c, rfl, -⟩ |
      ⟨c, rfl, -⟩ | ⟨rfl, -⟩ | ⟨rfl, -⟩ | ⟨rfl, -⟩ | ⟨-, h6⟩ <;> simp_all

/-- The 14-bit value is exact: the two halves have no common bits (R76). -/
theorem value14_eq (l m : Data7) : value14 l m = l.toNat + 128 * m.toNat := by
  have hl : l.toNat < 2 ^ 7 := l.isLt
  unfold value14
  rw [Nat.lor_comm, ← Nat.shiftLeft_add_eq_or_of_lt hl, Nat.shiftLeft_eq]
  omega

end Sys2Proof.Machine
end

