-- ==== Sys2Proof/Laws/Encoder.lean ====
section
/-! SUPPORT. The encoder's range checks and bytes (spec/45_encoder.md R190 to R209). -/

namespace Sys2Proof.Machine

theorem encodeMessage_err_iff (m : PortMsg) :
    encodeMessage m = .err .valueOutOfRange ↔ m.valid = false := by
  unfold encodeMessage; split <;> simp_all

theorem encodeMessage_ok_iff (m : PortMsg) (bytes : List Byte) :
    encodeMessage m = .ok bytes ↔ m.valid = true ∧ bytes = m.bytes := by
  by_cases h : m.valid = true <;> simp [encodeMessage, h, eq_comm]

theorem dataInRange_eq (b : Byte) : dataInRange b = decide (b.toNat ≤ 127) := by revert b; decide
theorem channelInRange_eq (b : Byte) : channelInRange b = decide (b.toNat ≤ 15) := by revert b; decide

/-- A data field in range is the wire byte of a data value (R192, R63). -/
theorem dataInRange_iff (b : Byte) : dataInRange b = true ↔ ∃ v : Data7, b = dataByte v := by
  constructor
  · intro h
    refine ⟨dataOf b, (dataByte_dataOf b ?_).symm⟩
    revert b; decide
  · rintro ⟨v, rfl⟩
    revert v; decide

/-- A channel field in range is a channel (R192, R65). -/
theorem channelInRange_iff (b : Byte) : channelInRange b = true ↔ ∃ c : Channel, b = statusByte 0#4 c := by
  constructor
  · intro h
    refine ⟨channelOf b, ?_⟩
    revert b; decide
  · rintro ⟨c, rfl⟩
    revert c; decide

@[simp] theorem dataInRange_dataByte (v : Data7) : dataInRange (dataByte v) = true :=
  (dataInRange_iff _).mpr ⟨v, rfl⟩
@[simp] theorem channelInRange_statusByte (c : Channel) : channelInRange (statusByte 0#4 c) = true :=
  (channelInRange_iff _).mpr ⟨c, rfl⟩

/-- The status nibble and the channel share no bit (R194 to R201). -/
theorem statusByte_or (k : BitVec 4) (c : Channel) : statusByte k 0#4 ||| statusByte 0#4 c = statusByte k c := by
  revert k c; decide

theorem controller_le_119 (v : Data7) : dataByte v ≤ 119#8 ↔ v.toNat ≤ 119 := by revert v; decide
theorem controller_ge_120 (v : Data7) : 120#8 ≤ dataByte v ↔ 120 ≤ v.toNat := by revert v; decide

/-- A list of data fields in range is a list of wire bytes. -/
theorem all_dataInRange_iff (l : List Byte) : l.all dataInRange = true ↔ ∃ k : List Data7, l = k.map dataByte := by
  induction l with
  | nil => simp
  | cons b rest ih =>
    rw [List.all_cons, Bool.and_eq_true, ih, dataInRange_iff]
    constructor
    · rintro ⟨⟨v, rfl⟩, k, rfl⟩
      exact ⟨v :: k, rfl⟩
    · rintro ⟨k, hk⟩
      cases k with
      | nil => simp at hk
      | cons v k =>
        simp only [List.map_cons, List.cons.injEq] at hk
        exact ⟨⟨v, hk.1⟩, k, hk.2⟩

end Sys2Proof.Machine
end

