-- ==== Sys2Proof/Laws/Ops.lean ====
section
/-! SUPPORT. One lemma per shared operation that says once everything it can do; the lemmas about `exec`
and `step` cite these instead of unfolding them. -/

namespace Sys2Proof.Machine

theorem emitEvent_eq (p : Sample) (m : Msg) (t : Time) (h : Option HwTime) (e : Option ErrorKind) (w : Work) :
    emitEvent p m t h e w =
      { ds := w.ds
        cs := (classify p.cfg m w.cs).2
        events := w.events ++ [messageEvent p m (classify p.cfg m w.cs).1 t h e] } := rfl

theorem emit_eq (p : Sample) (m : Msg) (t : Time) (h : Option HwTime) (w : Work) :
    emit p m t h w =
      { ds := w.ds
        cs := (classify p.cfg m w.cs).2
        events := w.events ++ [messageEvent p m (classify p.cfg m w.cs).1 t h none] } := rfl

theorem emitWith_eq (p : Sample) (m : Msg) (t : Time) (h : Option HwTime) (e : ErrorKind) (w : Work) :
    emitWith p m t h e w =
      { ds := w.ds
        cs := (classify p.cfg m w.cs).2
        events := w.events ++ [messageEvent p m (classify p.cfg m w.cs).1 t h (some e)] } := rfl

theorem report_eq (p : Sample) (e : ErrorKind) (w : Work) :
    report p e w = { ds := w.ds, cs := w.cs, events := w.events ++ [errorEvent p e] } := rfl

/-- `ClosePending()` leaves `Idle`, running status and `CS` alone, and adds the closing event (R93). -/
theorem closePending_eq (p : Sample) (w : Work) :
    closePending p w =
      { ds := { w.ds with pending := .idle }
        cs := w.cs
        events := w.events ++ closingEvents p w.ds.pending } := by
  unfold closePending closingEvents
  cases hp : w.ds.pending with
  | idle => simp [← hp]
  | await q => simp [report_eq, Work.setPending]
  | inSysEx a =>
    simp only
    split <;> simp [report_eq, emitWith_eq, Work.setPending, SysExAcc.message, SysExAcc.take, classify]

theorem channelStatus_eq (p : Sample) (b : Byte) (need : Nat) (w : Work) :
    channelStatus p b need w =
      { ds := { runningStatus := some b, pending := .await (.first b need p.now p.hw) }
        cs := w.cs
        events := w.events ++ closingEvents p w.ds.pending } := by
  simp [channelStatus, closePending_eq, enterAwait, Work.setPending, Work.setRunning, Partial.first]

theorem commonStatus_eq (p : Sample) (w : Work) :
    commonStatus p w =
      { ds := { runningStatus := none, pending := .idle }
        cs := w.cs
        events := w.events ++ closingEvents p w.ds.pending } := by
  simp [commonStatus, closePending_eq, Work.setRunning]

/-- What `runFeed` answers on a live stream. -/
theorem runFeed_live {s : State} {x : Stream} {i : Instance} (f : Sample → Work → Option Work)
    (h : s.Live x i) :
    runFeed f s =
      match f s.port i.work with
      | none => .fault .undefinedLatch
      | some w => .next (s.stepped x { ds := w.ds, cs := w.cs } w.events) := by
  obtain ⟨hx, hi⟩ := h
  unfold runFeed
  rw [hx]
  dsimp only
  rw [hi]
  rfl

theorem runTotal_live {s : State} {x : Stream} {i : Instance} (f : Sample → Work → Work) (h : s.Live x i) :
    runTotal f s =
      .next (s.stepped x { ds := (f s.port i.work).ds, cs := (f s.port i.work).cs } (f s.port i.work).events) :=
  runFeed_live _ h

/-- Without an instance there is no step (R277). -/
theorem runFeed_dead {s : State} (f : Sample → Work → Option Work) (h : ∀ x i, ¬ s.Live x i) :
    runFeed f s = .fault .noInstance := by
  unfold runFeed
  split
  · rfl
  · rename_i x hx
    split
    · rfl
    · rename_i i hi
      exact absurd ⟨hx, hi⟩ (h x i)

/-- Everything `runFeed` can do when it answers a next state. -/
theorem runFeed_next {s t : State} {f : Sample → Work → Option Work} (h : runFeed f s = .next t) :
    ∃ x i w, s.Live x i ∧ f s.port i.work = some w ∧
      t = s.stepped x { ds := w.ds, cs := w.cs } w.events := by
  unfold runFeed at h
  split at h
  · cases h
  · rename_i x hx
    split at h
    · cases h
    · rename_i i hi
      split at h
      · cases h
      · rename_i w hw
        exact ⟨x, i, w, ⟨hx, hi⟩, hw, by cases h; rfl⟩

end Sys2Proof.Machine
end

