-- ==== Sys2Proof/Laws/Exec.lean ====
section
/-! SUPPORT. Every instruction as the handler it runs on its stream, and everything a step can do. -/

namespace Sys2Proof.Machine

/-- The handler of each instruction: what `exec` runs on the working copy of the addressed stream. -/
def handler : Instr → Sample → Work → Option Work
  | .noteOff c, p, w => some (channelStatus p (statusByte 0x8#4 c) 2 w)
  | .noteOn c, p, w => some (channelStatus p (statusByte 0x9#4 c) 2 w)
  | .polyPressure c, p, w => some (channelStatus p (statusByte 0xA#4 c) 2 w)
  | .controlChange c, p, w => some (channelStatus p (statusByte 0xB#4 c) 2 w)
  | .channelMode c _, p, w => some (channelStatus p (statusByte 0xB#4 c) 2 w)
  | .programChange c, p, w => some (channelStatus p (statusByte 0xC#4 c) 1 w)
  | .channelPressure c, p, w => some (channelStatus p (statusByte 0xD#4 c) 1 w)
  | .pitchBend c, p, w => some (channelStatus p (statusByte 0xE#4 c) 2 w)
  | .sysexStart, p, w => some (sysExStart p (commonStatus p w))
  | .mtcQuarterFrame, p, w => some (enterAwait p 0xF1#8 1 (commonStatus p w))
  | .songPosition, p, w => some (enterAwait p 0xF2#8 2 (commonStatus p w))
  | .songSelect, p, w => some (enterAwait p 0xF3#8 1 (commonStatus p w))
  | .undefF4, p, w => some (report p .undefinedStatus (commonStatus p w))
  | .undefF5, p, w => some (report p .undefinedStatus (commonStatus p w))
  | .tuneRequest, p, w => some (emit p (.systemCommon .tuneRequest) p.now p.hw (commonStatus p w))
  | .eox, p, w =>
    some (match w.ds.pending with
      | .inSysEx a => eoxInSysEx p a w
      | .idle => unmatchedEox p (commonStatus p w)
      | .await _ => unmatchedEox p (commonStatus p w))
  | .clock, p, w => some (emitRealtime .clock p w)
  | .undefF9, p, w => some (report p .undefinedStatus w)
  | .start, p, w => some (emitRealtime .start p w)
  | .continueMsg, p, w => some (emitRealtime .continueMsg p w)
  | .stop, p, w => some (emitRealtime .stop p w)
  | .undefFD, p, w => some (report p .undefinedStatus w)
  | .activeSensing, p, w => some (emitRealtime .activeSensing p w)
  | .reset, p, w => some (emitRealtime .reset p w)
  | .data b, p, w => dataStep b p w

theorem exec_eq_runFeed (j : Instr) (s : State) : exec j s = runFeed (handler j) s := by
  cases j <;> rfl

/-- Everything an instruction can do when it answers a next state. -/
theorem exec_next {j : Instr} {s t : State} (h : exec j s = .next t) :
    ∃ x i w, s.Live x i ∧ handler j s.port i.work = some w ∧
      t = s.stepped x { ds := w.ds, cs := w.cs } w.events :=
  runFeed_next ((exec_eq_runFeed j s).symm.trans h)

/-- The same, for a stream and an instance already named. -/
theorem exec_next_of_live {j : Instr} {s t : State} {x : Stream} {i : Instance} (hl : s.Live x i)
    (h : exec j s = .next t) :
    ∃ w, handler j s.port i.work = some w ∧ t = s.stepped x { ds := w.ds, cs := w.cs } w.events := by
  obtain ⟨x', i', w, hl', hw, rfl⟩ := exec_next h
  obtain ⟨rfl, rfl⟩ := hl.unique hl'
  exact ⟨w, hw, rfl⟩

/-- What an instruction answers on a live stream. -/
theorem exec_live {j : Instr} {s : State} {x : Stream} {i : Instance} {w : Work} (hl : s.Live x i)
    (hw : handler j s.port i.work = some w) :
    exec j s = .next (s.stepped x { ds := w.ds, cs := w.cs } w.events) := by
  rw [exec_eq_runFeed, runFeed_live _ hl, hw]

/-- Everything a step can do when it answers a next state. -/
theorem step_next {s t : State} (h : step s = .next t) :
    (s.calls = [] ∧ t = s) ∨
    (∃ p b rest j, s.calls = .feed p b :: rest ∧
      j = decodeByte b (nextOfMessage (inputOf p.stream rest)) ∧ exec j (s.accept p rest) = .next t) ∨
    (∃ c rest, s.calls = .command c :: rest ∧ runCommand c { s with calls := rest } = .next t) := by
  unfold step fetch at h
  cases hc : s.calls with
  | nil => left; rw [hc] at h; cases h; exact ⟨rfl, rfl⟩
  | cons call rest =>
    rw [hc] at h
    cases call with
    | feed p b => exact .inr (.inl ⟨p, b, rest, _, rfl, rfl, h⟩)
    | command c => exact .inr (.inr ⟨c, rest, rfl, h⟩)

/-- A `feed` step is `exec` of the byte's instruction. -/
theorem step_feed {s : State} {p : Sample} {b : Byte} {rest : List Call} (h : s.calls = .feed p b :: rest) :
    step s = exec (decodeByte b (nextOfMessage (inputOf p.stream rest))) (s.accept p rest) := by
  simp [step, fetch, h]

/-- The bytes after an instruction's own byte change nothing it does (log 2). -/
theorem handler_decodeByte (b : Byte) (next : Option Byte) :
    handler (decodeByte b next) = handler (decodeByte b none) := by
  by_cases hB : kindNibble b = 0xB#4
  · have hb : b = statusByte 0xB#4 (channelOf b) := by rw [← hB, statusByte_kindNibble]
    rw [hb, decodeByte_control, decodeByte_control]
    rcases decodeControl_cases (channelOf b) next with h | ⟨n, h, -⟩ <;> rw [h] <;> rfl
  · rw [decodeByte_of_not_control b next hB]

/-- The host's run of the machine. -/
theorem core_run_eq (k : Nat) (s : State) : Sys2Proof.core.run k s = runSteps k s := by
  induction k generalizing s with
  | zero => rfl
  | succ k ih =>
    refine (Host.Core.run.eq_2 Sys2Proof.core s k).trans ?_
    have hs : Sys2Proof.core.step s = step s := rfl
    unfold runSteps
    cases h : step s with
    | next t => rw [hs.trans h]; exact ih t
    | fault r => rw [hs.trans h]; rfl
    | refused r => rw [hs.trans h]; rfl

theorem runSteps_succ {s t : State} (k : Nat) (h : step s = .next t) : runSteps (k + 1) s = runSteps k t := by
  simp only [runSteps, h]

/-- CHANNEL_MODE and CONTROL_CHANGE do the same at their status byte (R77; log 2). -/
theorem exec_channelMode_eq (c : Channel) (n : Data7) (s : State) :
    exec (.channelMode c n) s = exec (.controlChange c) s := rfl

end Sys2Proof.Machine
end

