-- ==== Sys2Proof/Laws/PerInstr.lean ====
section
/-! SUPPORT. One lemma per instruction: its first word lies in its row of spec/opcode_table.json
(spec/30_encoding.md R84). -/

/-- The first word of an instruction is there, and under the row's mask it is the row's match (R84). -/
def Sys2Proof.Laws.TableRow.Statement (i : Sys2Proof.Instr) : Prop :=
  ∃ b, (Sys2Proof.encode i).head? = some b ∧ b &&& (Sys2Proof.tableRow i).1 = (Sys2Proof.tableRow i).2

namespace Sys2Proof.Laws.TableRow

/-- The kind nibble of a status byte is what a channel row's mask 0xF0 leaves. -/
theorem statusByte_and (k c : BitVec 4) : statusByte k c &&& 0xF0#8 = statusByte k 0#4 := by
  revert k c; decide

/-- Bit 7 of a data byte is what the DATA row's mask 0x80 leaves. -/
theorem dataByte_and (v : Data7) : dataByte v &&& 0x80#8 = 0x00#8 := by
  revert v; decide

theorem noteOff (channel : Channel) : Statement (.noteOff channel) :=
  ⟨_, rfl, statusByte_and 0x8#4 channel⟩
theorem noteOn (channel : Channel) : Statement (.noteOn channel) :=
  ⟨_, rfl, statusByte_and 0x9#4 channel⟩
theorem polyPressure (channel : Channel) : Statement (.polyPressure channel) :=
  ⟨_, rfl, statusByte_and 0xA#4 channel⟩
theorem controlChange (channel : Channel) : Statement (.controlChange channel) :=
  ⟨_, rfl, statusByte_and 0xB#4 channel⟩
theorem channelMode (channel : Channel) (controller : Data7) : Statement (.channelMode channel controller) :=
  ⟨_, rfl, statusByte_and 0xB#4 channel⟩
theorem programChange (channel : Channel) : Statement (.programChange channel) :=
  ⟨_, rfl, statusByte_and 0xC#4 channel⟩
theorem channelPressure (channel : Channel) : Statement (.channelPressure channel) :=
  ⟨_, rfl, statusByte_and 0xD#4 channel⟩
theorem pitchBend (channel : Channel) : Statement (.pitchBend channel) :=
  ⟨_, rfl, statusByte_and 0xE#4 channel⟩
theorem sysexStart : Statement .sysexStart := ⟨_, rfl, rfl⟩
theorem mtcQuarterFrame : Statement .mtcQuarterFrame := ⟨_, rfl, rfl⟩
theorem songPosition : Statement .songPosition := ⟨_, rfl, rfl⟩
theorem songSelect : Statement .songSelect := ⟨_, rfl, rfl⟩
theorem undefF4 : Statement .undefF4 := ⟨_, rfl, rfl⟩
theorem undefF5 : Statement .undefF5 := ⟨_, rfl, rfl⟩
theorem tuneRequest : Statement .tuneRequest := ⟨_, rfl, rfl⟩
theorem eox : Statement .eox := ⟨_, rfl, rfl⟩
theorem clock : Statement .clock := ⟨_, rfl, rfl⟩
theorem undefF9 : Statement .undefF9 := ⟨_, rfl, rfl⟩
theorem start : Statement .start := ⟨_, rfl, rfl⟩
theorem continueMsg : Statement .continueMsg := ⟨_, rfl, rfl⟩
theorem stop : Statement .stop := ⟨_, rfl, rfl⟩
theorem undefFD : Statement .undefFD := ⟨_, rfl, rfl⟩
theorem activeSensing : Statement .activeSensing := ⟨_, rfl, rfl⟩
theorem reset : Statement .reset := ⟨_, rfl, rfl⟩
theorem data (value : Data7) : Statement (.data value) := ⟨_, rfl, dataByte_and value⟩

end Sys2Proof.Laws.TableRow
end

