-- ==== Sys2Proof/Tests/Slice0.lean ====
section
/-! SUPPORT. The model's own tests: words written out from spec/30_encoding.md, one step of each
instruction with the result its rule's example gives, the classifier's and the encoder's examples, and for
every statement with hypotheses a state and operands that meet them. -/

namespace Sys2Proof.Tests

open Sys2Proof.Machine

/-! ## Helpers -/

/-- The baseline configuration of spec/95_test_vectors.md section 0. -/
def base : Cfg :=
  { velocityZeroIsNoteOff := false, cc9193Renamed := false, sysexMaxPayloadBytes := 16
    unmatchedEoxAsEmptySysex := false }

/-- The sample of the tested step: `now` = 10, `hw` = 7. -/
def now10 : Sample := { stream := 0, cfg := base, now := 10, hw := some 7 }

/-- A stream with the decoder state `ds` and empty selectors. -/
def streamWith (ds : DecoderState) : Stream := { inst := some { ds := ds, cs := .fresh }, events := [] }

/-- One stream with the decoder state `ds`; the sample at the port is `now10`. -/
def stateWith (ds : DecoderState) : State :=
  { streams := [streamWith ds], port := now10, calls := [], transmitted := [] }

/-- The decoder state and the events of stream 0. -/
def readOut (o : Host.Outcome State Fault Refusal) : Option (DecoderState × List Event) :=
  match o with
  | .next s =>
    match s.streams[0]? with
    | some x => x.inst.map fun i => (i.ds, x.events)
    | none => none
  | .fault _ => none
  | .refused _ => none

/-- One `feed` of `b` with the sample `now10` in the decoder state `ds`, under the configuration `cfg`. -/
def feedWith (cfg : Cfg) (ds : DecoderState) (b : Byte) : Option (DecoderState × List Event) :=
  readOut (step { stateWith ds with calls := [.feed { now10 with cfg := cfg } b] })

def feedTo (ds : DecoderState) (b : Byte) : Option (DecoderState × List Event) := feedWith base ds b

def idle : DecoderState := { runningStatus := none, pending := .idle }
def running (b : Byte) : DecoderState := { runningStatus := some b, pending := .idle }
def channelFirst (b : Byte) (need : Nat) : DecoderState :=
  { runningStatus := some b, pending := .await (.first b need 3 none) }
def channelSecond (b : Byte) (d0 : Data7) : DecoderState :=
  { runningStatus := some b, pending := .await (.second b d0 3 none) }
def commonFirst (b : Byte) (need : Nat) : DecoderState :=
  { runningStatus := none, pending := .await (.first b need 3 none) }
def acc (id payload : List Data7) : SysExAcc := { id := id, payload := payload, ovf := false, t0 := 3, h0 := none }
def accOvf : SysExAcc := { id := [], payload := [], ovf := true, t0 := 3, h0 := none }
def inSysEx (a : SysExAcc) : DecoderState := { runningStatus := none, pending := .inSysEx a }

/-- The event of a message whose first byte came at `now` = 3 without hardware time. -/
def latched (m : Msg) : Event := messageEvent now10 m .plain 3 none none
/-- The event of a message whose first byte is the byte of the tested step. -/
def atOnce (m : Msg) : Event := messageEvent now10 m .plain 10 (some 7) none
def error (e : ErrorKind) : Event := errorEvent now10 e

/-! ## Well-formedness, decoding, table words -/

/-- R77: 119 is the last controller of a Control Change, 120 and 127 are Channel Mode controllers. -/
theorem test_wellFormed_refuses_controller_below_120 :
    (Instr.channelMode 0#4 5#7).wellFormed = false ∧ (Instr.channelMode 0#4 119#7).wellFormed = false ∧
    (Instr.channelMode 0#4 120#7).wellFormed = true ∧ (Instr.channelMode 0#4 127#7).wellFormed = true := by
  decide

theorem test_decode_end_of_stream : decode [] = .reject .endOfStream := by decide

/-- R66, R67. -/
theorem test_decode_channel_words :
    decode [0b10000001#8, 0b00111100#8, 0b01000000#8] = .instr (.noteOff 1#4) [0x3C#8, 0x40#8] ∧
    decode [0b10010011#8] = .instr (.noteOn 3#4) [] ∧
    decode [0b10100010#8] = .instr (.polyPressure 2#4) [] ∧
    decode [0b10110000#8, 0b00000111#8] = .instr (.controlChange 0#4) [0x07#8] ∧
    decode [0b10110011#8, 0b01111011#8] = .instr (.channelMode 3#4 123#7) [0x7B#8] ∧
    decode [0b11000101#8] = .instr (.programChange 5#4) [] ∧
    decode [0b11010000#8] = .instr (.channelPressure 0#4) [] ∧
    decode [0b11101111#8] = .instr (.pitchBend 15#4) [] := by decide

/-- R77, R84: 0xBn is CHANNEL_MODE from controller 120 on; R74: a realtime byte between the two bytes is
no data byte; without a data byte 1 it is CONTROL_CHANGE. -/
theorem test_decode_control_boundary :
    decode [0xB0#8, 0x77#8] = .instr (.controlChange 0#4) [0x77#8] ∧
    decode [0xB0#8, 0x78#8] = .instr (.channelMode 0#4 120#7) [0x78#8] ∧
    decode [0xB0#8, 0xF8#8, 0x7F#8] = .instr (.channelMode 0#4 127#7) [0xF8#8, 0x7F#8] ∧
    decode [0xB0#8, 0xF0#8] = .instr (.controlChange 0#4) [0xF0#8] ∧
    decode [0xB0#8] = .instr (.controlChange 0#4) [] := by decide

/-- R68. -/
theorem test_decode_common_words :
    decode [0b11110000#8] = .instr .sysexStart [] ∧ decode [0b11110001#8] = .instr .mtcQuarterFrame [] ∧
    decode [0b11110010#8] = .instr .songPosition [] ∧ decode [0b11110011#8] = .instr .songSelect [] ∧
    decode [0b11110100#8] = .instr .undefF4 [] ∧ decode [0b11110101#8] = .instr .undefF5 [] ∧
    decode [0b11110110#8] = .instr .tuneRequest [] ∧ decode [0b11110111#8] = .instr .eox [] := by decide

/-- R69. -/
theorem test_decode_realtime_words :
    decode [0b11111000#8] = .instr .clock [] ∧ decode [0b11111001#8] = .instr .undefF9 [] ∧
    decode [0b11111010#8] = .instr .start [] ∧ decode [0b11111011#8] = .instr .continueMsg [] ∧
    decode [0b11111100#8] = .instr .stop [] ∧ decode [0b11111101#8] = .instr .undefFD [] ∧
    decode [0b11111110#8] = .instr .activeSensing [] ∧ decode [0b11111111#8] = .instr .reset [] := by decide

/-- R63. -/
theorem test_decode_data_words :
    decode [0b00000000#8] = .instr (.data 0#7) [] ∧ decode [0b01111111#8] = .instr (.data 127#7) [] := by decide

/-- The first word in bits 7 to 0, the next in bits 15 to 8 (R84). -/
theorem test_decodeTableWord :
    decodeTableWord 8 0x80 = some (.noteOff 0#4) ∧ decodeTableWord 24 0x403C81 = some (.noteOff 1#4) ∧
    decodeTableWord 8 0xB0 = some (.controlChange 0#4) ∧
    decodeTableWord 16 0x78B0 = some (.channelMode 0#4 120#7) ∧
    decodeTableWord 8 0xF0 = some .sysexStart ∧ decodeTableWord 8 0x05 = some (.data 5#7) := by decide

/-- The word placed after reset is the one the next step runs: 0x93 awaits two data bytes (R115). -/
theorem test_withFetchWord_runs_the_word :
    (readOut (step (State.reset.withFetchWord 24 0x7F4093))).map (fun r => r.1.runningStatus) =
      some (some 0x93#8) ∧
    (readOut (step (State.reset.withFetchWord 8 0xF8))).map (fun r => r.2.length) = some 1 := by decide

/-! ## One step of each instruction: the examples of the rules -/

theorem test_noteOff : feedTo idle 0x81#8 =
    some ({ runningStatus := some 0x81#8, pending := .await (.first 0x81#8 2 10 (some 7)) }, []) := by decide
theorem test_noteOn : feedTo idle 0x93#8 =
    some ({ runningStatus := some 0x93#8, pending := .await (.first 0x93#8 2 10 (some 7)) }, []) := by decide
/-- R115: a repeated status byte reports the message it cuts short. -/
theorem test_noteOn_repeated : feedTo (channelFirst 0x90#8 2) 0x90#8 =
    some ({ runningStatus := some 0x90#8, pending := .await (.first 0x90#8 2 10 (some 7)) },
      [error .truncatedMessage]) := by decide
theorem test_polyPressure : feedTo (running 0x90#8) 0xA2#8 =
    some ({ runningStatus := some 0xA2#8, pending := .await (.first 0xA2#8 2 10 (some 7)) }, []) := by decide
/-- R135: a status byte inside a SysEx ends it unterminated and is decoded itself. -/
theorem test_controlChange_in_sysEx : feedTo (inSysEx (acc [0x43#7] [0x01#7])) 0xB0#8 =
    some ({ runningStatus := some 0xB0#8, pending := .await (.first 0xB0#8 2 10 (some 7)) },
      [messageEvent now10 (.systemExclusive [0x43#7] [0x01#7] false) .plain 3 none
        (some .implicitSysExTermination)]) := by decide
theorem test_channelMode : (step { stateWith idle with
      calls := [.feed now10 0xB3#8, .feed now10 0x7B#8] } |> readOut) =
    some ({ runningStatus := some 0xB3#8, pending := .await (.first 0xB3#8 2 10 (some 7)) }, []) := by decide
theorem test_programChange : feedTo idle 0xC5#8 =
    some ({ runningStatus := some 0xC5#8, pending := .await (.first 0xC5#8 1 10 (some 7)) }, []) := by decide
theorem test_channelPressure : feedTo idle 0xD0#8 =
    some ({ runningStatus := some 0xD0#8, pending := .await (.first 0xD0#8 1 10 (some 7)) }, []) := by decide
theorem test_pitchBend : feedTo idle 0xE0#8 =
    some ({ runningStatus := some 0xE0#8, pending := .await (.first 0xE0#8 2 10 (some 7)) }, []) := by decide
theorem test_sysexStart : feedTo (running 0x90#8) 0xF0#8 =
    some (inSysEx { acc [] [] with t0 := 10, h0 := some 7 }, []) := by decide
/-- R102: 0xF0 in an overflowed SysEx reports the ending without a message. -/
theorem test_sysexStart_after_overflow : feedTo (inSysEx accOvf) 0xF0#8 =
    some (inSysEx { acc [] [] with t0 := 10, h0 := some 7 }, [error .implicitSysExTermination]) := by decide
theorem test_mtcQuarterFrame : feedTo (running 0x90#8) 0xF1#8 =
    some ({ runningStatus := none, pending := .await (.first 0xF1#8 1 10 (some 7)) }, []) := by decide
theorem test_songPosition : feedTo (running 0x90#8) 0xF2#8 =
    some ({ runningStatus := none, pending := .await (.first 0xF2#8 2 10 (some 7)) }, []) := by decide
theorem test_songSelect : feedTo idle 0xF3#8 =
    some ({ runningStatus := none, pending := .await (.first 0xF3#8 1 10 (some 7)) }, []) := by decide
/-- R141: `[0x90, 0x40, 0xF4]` ends in two errors. -/
theorem test_undefF4 : feedTo (channelSecond 0x90#8 0x40#7) 0xF4#8 =
    some (idle, [error .truncatedMessage, error .undefinedStatus]) := by decide
theorem test_undefF5 : feedTo (running 0x90#8) 0xF5#8 = some (idle, [error .undefinedStatus]) := by decide
theorem test_tuneRequest : feedTo (running 0x90#8) 0xF6#8 =
    some (idle, [atOnce (.systemCommon .tuneRequest)]) := by decide
/-- R103: the one step with two messages. -/
theorem test_tuneRequest_in_sysEx : feedTo (inSysEx (acc [0x43#7] [])) 0xF6#8 =
    some (idle, [messageEvent now10 (.systemExclusive [0x43#7] [] false) .plain 3 none
        (some .implicitSysExTermination), atOnce (.systemCommon .tuneRequest)]) := by decide
/-- R133, with the latched time of 0xF0. -/
theorem test_eox_in_sysEx : feedTo (inSysEx (acc [0x43#7] [0x01#7, 0x02#7])) 0xF7#8 =
    some (idle, [latched (.systemExclusive [0x43#7] [0x01#7, 0x02#7] true)]) := by decide
/-- R134, with the policy set. -/
theorem test_eox_unmatched : feedWith { base with unmatchedEoxAsEmptySysex := true } (running 0x90#8) 0xF7#8 =
    some (idle, [messageEvent now10 (.systemExclusive [] [] true) .plain 10 (some 7) (some .unmatchedEox)]) := by
  decide
theorem test_clock : feedTo (channelFirst 0x90#8 2) 0xF8#8 =
    some (channelFirst 0x90#8 2, [atOnce (.systemRealtime .clock)]) := by decide
theorem test_undefF9 : feedTo (channelSecond 0x90#8 0x40#7) 0xF9#8 =
    some (channelSecond 0x90#8 0x40#7, [error .undefinedStatus]) := by decide
theorem test_start : feedTo idle 0xFA#8 = some (idle, [atOnce (.systemRealtime .start)]) := by decide
theorem test_continueMsg : feedTo idle 0xFB#8 = some (idle, [atOnce (.systemRealtime .continueMsg)]) := by decide
theorem test_stop : feedTo idle 0xFC#8 = some (idle, [atOnce (.systemRealtime .stop)]) := by decide
theorem test_undefFD : feedTo (inSysEx (acc [0x43#7] [])) 0xFD#8 =
    some (inSysEx (acc [0x43#7] []), [error .undefinedStatus]) := by decide
theorem test_activeSensing : feedTo idle 0xFE#8 =
    some (idle, [atOnce (.systemRealtime .activeSensing)]) := by decide
/-- R164: Reset resets nothing. -/
theorem test_reset : feedTo (channelSecond 0x90#8 0x40#7) 0xFF#8 =
    some (channelSecond 0x90#8 0x40#7, [atOnce (.systemRealtime .reset)]) := by decide
/-- R96: `Await(0x90, have 1, d0 0x40)`, byte 0x7F. -/
theorem test_data_completes_note : feedTo (channelSecond 0x90#8 0x40#7) 0x7F#8 =
    some (running 0x90#8, [latched (.channelVoice 0#4 (.noteOn 0x40#7 0x7F#7))]) := by decide
/-- R136, with the cap at 2: the third payload byte overflows. -/
theorem test_data_overflows :
    feedWith { base with sysexMaxPayloadBytes := 2 } (inSysEx (acc [0x43#7] [0x01#7, 0x02#7])) 0x03#8 =
      some (inSysEx accOvf, [error .sysExTooLarge]) := by decide

/-! ## Lifecycle, classifier, encoder: the examples of the rules -/

/-- R262: no event for the message that is discarded. -/
theorem test_resync :
    readOut (step { stateWith (channelSecond 0x90#8 0x40#7) with calls := [.command (.resync 0)] }) =
      some (idle, []) := by decide

/-- R174: on channel 0, CC 101 = 127 then CC 100 = 127. -/
theorem test_null_selector :
    let write (n : Data7) (cs : ClassifierState) :=
      (classify base (.channelVoice 0#4 (.controlChange n 127#7)) cs).2
    (write 100#7 (write 101#7 .fresh)).sel 0#4 = { ChanSel.empty with lastSel := some .rpn } := by decide

/-- R176: channel 0 after CC 101 = 0, CC 100 = 1. -/
theorem test_data_entry :
    let write (n v : Data7) (cs : ClassifierState) :=
      (classify base (.channelVoice 0#4 (.controlChange n v)) cs).2
    (classify base (.channelVoice 0#4 (.controlChange 6#7 64#7)) (write 100#7 1#7 (write 101#7 0#7 .fresh))).1.param =
      some { space := .rpn, msb := 0#7, lsb := 1#7 } := by decide

/-- V95: a cleared NRPN pair does not bring the complete RPN pair back. -/
theorem test_data_entry_after_null :
    let write (n v : Data7) (cs : ClassifierState) :=
      (classify base (.channelVoice 0#4 (.controlChange n v)) cs).2
    (classify base (.channelVoice 0#4 (.controlChange 6#7 64#7))
      (write 98#7 127#7 (write 99#7 127#7 (write 100#7 0#7 (write 101#7 0#7 .fresh))))).1.param = none := by decide

/-- R178. -/
theorem test_universal :
    (classify base (.systemExclusive [0x7E#7] [0x7F#7, 0x06#7, 0x01#7] true) .fresh).1.universal =
      some { univId := 0x7E#7, subId1 := some 0x7F#7, subId2 := some 0x06#7 } := by decide

/-- R170, R171. -/
theorem test_alias_and_naming :
    (classify { base with velocityZeroIsNoteOff := true } (.channelVoice 0#4 (.noteOn 0x40#7 0#7)) .fresh).1.aliasNoteOff =
      true ∧
    (classify { base with cc9193Renamed := true } (.channelVoice 0#4 (.controlChange 91#7 40#7)) .fresh).1.ccRenamed =
      true := by decide

/-- R194, R197, R198. -/
theorem test_encode_channel :
    encodeMessage (.channelVoice 1#8 (.noteOff 0x3C#8 0x40#8)) = .ok [0x81#8, 0x3C#8, 0x40#8] ∧
    encodeMessage (.channelVoice 0#8 (.controlChange 120#8 0#8)) = .err .valueOutOfRange ∧
    encodeMessage (.channelMode 3#8 123#8 0#8) = .ok [0xB3#8, 0x7B#8, 0x00#8] := by decide

/-- R207: the zero-length message, an incomplete id, and an id that would swallow the payload. -/
theorem test_encode_sysEx :
    encodeMessage (.systemExclusive [] [] false) = .ok [0xF0#8, 0xF7#8] ∧
    encodeMessage (.systemExclusive [0x00#8, 0x20#8] [] true) = .ok [0xF0#8, 0x00#8, 0x20#8, 0xF7#8] ∧
    encodeMessage (.systemExclusive [0x00#8] [0x20#8] true) = .err .valueOutOfRange := by decide

/-- R228. -/
theorem test_error_codes :
    [none, some .orphanDataByte, some .unmatchedEox, some .implicitSysExTermination, some .sysExTooLarge,
      some .valueOutOfRange, some .undefinedStatus, some .truncatedMessage].map ErrorKind.code =
      [0, 1, 2, 3, 4, 5, 6, 7] := by decide

/-- R76, R122: the Pitch Bend centre, minimum and maximum. -/
theorem test_bend : bend 0x00#7 0x40#7 = 0 ∧ bend 0#7 0#7 = -8192 ∧ bend 127#7 127#7 = 8191 := by decide

/-! ## Witnesses: a state and operands that meet the hypotheses of each statement -/

/-- The decoder states the witnesses use. -/
def modes : List DecoderState :=
  [idle, running 0x90#8, channelFirst 0x90#8 2, channelSecond 0x90#8 0x40#7, commonFirst 0xF1#8 1,
    inSysEx (acc [] []), inSysEx (acc [0x43#7] [0x01#7]), inSysEx accOvf]

/-- The addressed stream is live, and the state meets the invariant. -/
abbrev LiveWith (ds : DecoderState) : Prop :=
  (stateWith ds).Live (streamWith ds) { ds := ds, cs := .fresh } ∧ (stateWith ds).ok = true

theorem witness_live_in_every_mode : ∀ ds ∈ modes, LiveWith ds := by decide

theorem witness_DecodeOfEncodeIsTheInstruction :
    ∀ i ∈ [Instr.channelMode 15#4 120#7, .channelMode 0#4 127#7, .noteOff 15#4, .data 127#7],
      i.wellFormed = true := by decide
theorem witness_DecodedInstructionEncodesToItsByte :
    decode [0xB0#8, 0x78#8] = .instr (.channelMode 0#4 120#7) [0x78#8] := by decide
theorem witness_StepRunsTheAcceptedByte :
    { stateWith idle with calls := [.feed now10 0xF8#8] }.calls = [.feed now10 0xF8#8] ∧
    decode (0xF8#8 :: inputOf now10.stream []) = .instr .clock [] := by decide
theorem witness_StepWithoutCallKeepsTheState : State.reset.calls = [] := rfl
theorem witness_StepKeepsTheInvariant :
    State.reset.ok = true ∧ step State.reset = .next State.reset := ⟨by decide, rfl⟩
theorem witness_EveryInstructionCompletes : LiveWith (inSysEx (acc [0x43#7] [0x01#7])) := by decide
theorem witness_FeedWithoutInstanceStops :
    ∀ x i, ¬ State.Live { stateWith idle with streams := [] } x i := by simp [stateWith]
theorem witness_ChannelStatusClosesThenAwaits : LiveWith (channelFirst 0x90#8 2) := by decide
theorem witness_SystemCommonStatusClosesThenAwaits : LiveWith (running 0x90#8) := by decide
theorem witness_SysExStartOpensAnEmptyAccumulator : LiveWith (inSysEx accOvf) := by decide
theorem witness_UndefinedCommonStatusIsReported : LiveWith (channelSecond 0x90#8 0x40#7) := by decide
theorem witness_TuneRequestIsEmittedAtOnce : LiveWith (inSysEx (acc [0x43#7] [])) := by decide
theorem witness_EoxEndsASysEx :
    ∀ a ∈ [acc [0x43#7] [0x01#7], acc [] [], accOvf],
      LiveWith (inSysEx a) ∧ (inSysEx a).pending = .inSysEx a := by decide
theorem witness_UnmatchedEoxIsReported :
    (LiveWith idle ∧ ∀ a, idle.pending ≠ .inSysEx a) ∧
    (LiveWith (channelFirst 0x90#8 2) ∧ ∀ a, (channelFirst 0x90#8 2).pending ≠ .inSysEx a) := by
  refine ⟨⟨by decide, ?_⟩, by decide, ?_⟩ <;> intro a h <;> cases h
/-- One witness for each of the ten clauses; the Control Change clause at controllers 119 and 120. -/
theorem witness_LastDataByteCompletesTheMessage :
    (∀ b ∈ [0x80#8, 0x90#8, 0xA0#8, 0xB0#8, 0xE0#8], ∀ d ∈ [119#7, 120#7],
      LiveWith (channelSecond b d) ∧ (channelSecond b d).pending = .await (.second b d 3 none)) ∧
    (∀ b ∈ [0xC0#8, 0xD0#8],
      LiveWith (channelFirst b 1) ∧ (channelFirst b 1).pending = .await (.first b 1 3 none)) ∧
    (∀ b ∈ [0xF1#8, 0xF3#8],
      LiveWith (commonFirst b 1) ∧ (commonFirst b 1).pending = .await (.first b 1 3 none)) ∧
    LiveWith { runningStatus := none, pending := .await (.second 0xF2#8 127#7 3 none) } := by
  refine ⟨?_, by decide, by decide, by decide⟩
  decide
theorem witness_FirstOfTwoDataBytesIsKept :
    LiveWith (commonFirst 0xF2#8 2) ∧ (commonFirst 0xF2#8 2).pending = .await (.first 0xF2#8 2 3 none) := by
  decide
theorem witness_RunningStatusStartsAMessage :
    ∀ k ∈ [0x8#4, 0x9#4, 0xA#4, 0xB#4, 0xE#4],
      LiveWith (running (k ++ 15#4)) ∧ (running (k ++ 15#4)).pending = .idle ∧
        (running (k ++ 15#4)).runningStatus = some (k ++ 15#4) := by decide
theorem witness_RunningStatusOneByteKindsCompleteAtOnce :
    ∀ k ∈ [0xC#4, 0xD#4],
      LiveWith (running (k ++ 0#4)) ∧ (running (k ++ 0#4)).pending = .idle ∧
        (running (k ++ 0#4)).runningStatus = some (k ++ 0#4) := by decide
theorem witness_OrphanDataByteIsReportedAndDropped :
    LiveWith idle ∧ idle.pending = .idle ∧ idle.runningStatus = none := by decide
/-- The id clause at the empty id, one byte 0x00 and two bytes; the payload clause at the last free byte
and after a three-byte id. -/
theorem witness_SysExDataByteIsStored :
    (∀ a ∈ [acc [] [], acc [0x00#7] [], acc [0x00#7, 0x20#7] []],
      LiveWith (inSysEx a) ∧ a.ovf = false ∧
        (a.id = [] ∨ (a.id.head? = some 0x00#7 ∧ a.id.length < 3))) ∧
    (∀ a ∈ [acc [0x43#7] (List.replicate 15 0#7), acc [0x00#7, 0x20#7, 0x33#7] []],
      LiveWith (inSysEx a) ∧ a.ovf = false ∧
        ¬ (a.id = [] ∨ (a.id.head? = some 0x00#7 ∧ a.id.length < 3)) ∧
        a.payload.length < base.sysexMaxPayloadBytes) := by decide
theorem witness_SysExOverflowDiscardsTheMessage :
    LiveWith (inSysEx (acc [0x43#7] (List.replicate 16 0#7))) ∧
    (acc [0x43#7] (List.replicate 16 0#7)).ovf = false ∧
    (acc [0x43#7] (List.replicate 16 0#7)).id.length = idNeed [0x43#7] ∧
    base.sysexMaxPayloadBytes ≤ (acc [0x43#7] (List.replicate 16 0#7)).payload.length := by decide
theorem witness_OverflowedSysExDropsDataBytes : LiveWith (inSysEx accOvf) ∧ accOvf.ovf = true := by decide
theorem witness_RealtimeMessagesAreEmittedAtOnce : LiveWith (channelSecond 0x90#8 0x40#7) := by decide
theorem witness_UndefinedRealtimeIsReported : LiveWith (inSysEx (acc [0x43#7] [])) := by decide

/-- A data byte that is stored, and an instruction of each kind: the step answers a next state in which the
stream is live. It meets the hypotheses of every statement about a step that answers a next state. -/
theorem witness_next_states :
    ∀ ds ∈ modes, ∀ j ∈ [Instr.data 5#7, .noteOn 0#4, .eox, .tuneRequest, .undefF4, .clock],
      (readOut (exec j (stateWith ds))).isSome = true := by decide
theorem witness_PayloadGrowsOnlyBelowTheCap :
    LiveWith (inSysEx (acc [0x43#7] [])) ∧
    ∃ t y i', exec (.data 5#7) (stateWith (inSysEx (acc [0x43#7] []))) = .next t ∧ t.Live y i' :=
  ⟨by decide, _, _, _, rfl, rfl, rfl⟩
theorem witness_StepDeliversAtMostTwoEvents :
    LiveWith (channelFirst 0x90#8 2) ∧ ∃ t, exec .undefF4 (stateWith (channelFirst 0x90#8 2)) = .next t :=
  ⟨by decide, _, rfl⟩
/-- Two messages, two errors, and neither. -/
theorem witness_TwoMessagesOrTwoErrorsOnlyWhereListed :
    (∃ t i' new, exec .tuneRequest (stateWith (inSysEx (acc [] []))) = .next t ∧
      t = (stateWith (inSysEx (acc [] []))).stepped (streamWith (inSysEx (acc [] []))) i' new) ∧
    (∃ t i' new, exec .eox (stateWith (channelFirst 0x90#8 2)) = .next t ∧
      t = (stateWith (channelFirst 0x90#8 2)).stepped (streamWith (channelFirst 0x90#8 2)) i' new) ∧
    (∃ t i' new, exec .clock (stateWith idle) = .next t ∧
      t = (stateWith idle).stepped (streamWith idle) i' new) :=
  ⟨⟨_, _, _, rfl, rfl⟩, ⟨_, _, _, rfl, rfl⟩, ⟨_, _, _, rfl, rfl⟩⟩
theorem witness_EventsCarryTheNowOfTheirStep :
    LiveWith idle ∧ ∃ t i' e, exec .clock (stateWith idle) = .next t ∧
      t = (stateWith idle).stepped (streamWith idle) i' [e] ∧ e ∈ [e] :=
  ⟨by decide, _, _, _, rfl, rfl, List.mem_singleton_self _⟩
theorem witness_EmittedMessagesCanBeEncoded :
    LiveWith (inSysEx (acc [0x00#7] [])) ∧ ∃ t i' e d,
      exec .eox (stateWith (inSysEx (acc [0x00#7] []))) = .next t ∧
      t = (stateWith (inSysEx (acc [0x00#7] []))).stepped (streamWith (inSysEx (acc [0x00#7] []))) i' [e] ∧
      e ∈ [e] ∧ e.msg = some d :=
  ⟨by decide, _, _, _, _, rfl, rfl, List.mem_singleton_self _, rfl⟩
theorem witness_InstructionsChangeOnlyTheAddressedStream :
    ∃ t, exec (.noteOn 0#4) (stateWith idle) = .next t := ⟨_, rfl⟩
theorem witness_StepIsAFunctionOfInstanceAndInputs :
    let s' : State := { stateWith idle with streams := [streamWith idle, streamWith idle] }
    LiveWith idle ∧ s'.Live (streamWith idle) { ds := idle, cs := .fresh } ∧
    (stateWith idle).port = s'.port ∧
    (∃ t, exec .clock (stateWith idle) = .next t) ∧ ∃ t', exec .clock s' = .next t' :=
  ⟨by decide, by decide, rfl, ⟨_, rfl⟩, _, rfl⟩
theorem witness_RunningStatusFollowsTheStatusBytes :
    LiveWith (running 0x90#8) ∧
    (∃ t y i', exec (.noteOff 2#4) (stateWith (running 0x90#8)) = .next t ∧ t.Live y i') ∧
    (∃ t y i', exec .eox (stateWith (running 0x90#8)) = .next t ∧ t.Live y i') ∧
    (∃ t y i', exec (.data 1#7) (stateWith (running 0x90#8)) = .next t ∧ t.Live y i') :=
  ⟨by decide, ⟨_, _, _, rfl, rfl, rfl⟩, ⟨_, _, _, rfl, rfl, rfl⟩, ⟨_, _, _, rfl, rfl, rfl⟩⟩
theorem witness_StatusBytesLeaveTheClassifierAlone :
    LiveWith idle ∧ (∃ t y i', exec (.noteOff 2#4) (stateWith idle) = .next t ∧ t.Live y i') ∧
    ∀ v, Instr.noteOff 2#4 ≠ .data v :=
  ⟨by decide, ⟨_, _, _, rfl, rfl, rfl⟩, fun v h => by cases h⟩

/-- R175: neither half is cleared; (127, 126) and (126, 127) are ordinary values. -/
theorem witness_LastWrittenPairIsActive :
    (∀ m l : Data7, (m, l) ∈ [(127#7, 126#7), (126#7, 127#7), (0#7, 0#7)] →
      ¬ (m = 127#7 ∧ l = 127#7) ∧ ¬ (m = 127#7 ∧ (ClassifierState.fresh.sel 0#4).rpnLsb = some 127#7) ∧
      ¬ (l = 127#7 ∧ (ClassifierState.fresh.sel 0#4).rpnMsb = some 127#7) ∧
      ¬ (m = 127#7 ∧ (ClassifierState.fresh.sel 0#4).nrpnLsb = some 127#7) ∧
      ¬ (l = 127#7 ∧ (ClassifierState.fresh.sel 0#4).nrpnMsb = some 127#7)) ∧
    6#7 ∈ [6#7, 38#7, 96#7, 97#7] := by
  refine ⟨?_, by decide⟩
  intro m l h
  simp only [List.mem_cons, Prod.mk.injEq, List.not_mem_nil, or_false] at h
  obtain ⟨rfl, rfl⟩ | ⟨rfl, rfl⟩ | ⟨rfl, rfl⟩ := h <;> decide
theorem witness_SelectorWriteSetsOneHalfOrClearsThePair : (1#4 : Channel) ≠ 0#4 ∧ 98#7 ∈ [98#7, 99#7, 100#7, 101#7] := by
  decide
/-- One channel's record for each of the five clauses; the named pair is also incomplete or cleared while the
other one is complete (V95). -/
theorem witness_DataEntryCarriesTheActiveParameter :
    let both : ChanSel :=
      { rpnMsb := some 0#7, rpnLsb := some 127#7, nrpnMsb := some 127#7, nrpnLsb := some 8#7, lastSel := none }
    let sel (x : ChanSel) : ChanSel := (ClassifierState.fresh.setSel 15#4 x).sel 15#4
    97#7 ∈ [6#7, 38#7, 96#7, 97#7] ∧
    ((sel { both with lastSel := some .rpn }).lastSel = some .rpn ∧
      (sel { both with lastSel := some .rpn }).rpnMsb = some 0#7 ∧
      (sel { both with lastSel := some .rpn }).rpnLsb = some 127#7) ∧
    ((sel { both with lastSel := some .nrpn }).lastSel = some .nrpn ∧
      (sel { both with lastSel := some .nrpn }).nrpnMsb = some 127#7 ∧
      (sel { both with lastSel := some .nrpn }).nrpnLsb = some 8#7) ∧
    (sel both).lastSel = none ∧
    ((sel { both with lastSel := some .rpn, rpnLsb := none }).lastSel = some .rpn ∧
      (sel { both with lastSel := some .rpn, rpnLsb := none }).rpnLsb = none) ∧
    ((sel { both with lastSel := some .nrpn, nrpnMsb := none }).lastSel = some .nrpn ∧
      (sel { both with lastSel := some .nrpn, nrpnMsb := none }).nrpnMsb = none) := by decide
theorem witness_ChannelResetClearsOneChannel : (1#4 : Channel) ≠ 0#4 ∧ (120#7 : Data7) ≠ 121#7 := by decide
theorem witness_Controllers91And93AreRenamed :
    93#7 ∈ [91#7, 93#7] ∧
    ∀ c' k w, (Message.channelVoice 0#4 (.controlChange 92#7 1#7) : Msg) = .channelVoice c' (.controlChange k w) →
      k ∉ [91#7, 93#7] := by
  refine ⟨by decide, ?_⟩
  intro c' k w h
  injection h with _ h
  injection h with h _
  subst h; decide
theorem witness_UniversalSysExIsAnnotated :
    0x7F#7 ∈ [0x7E#7, 0x7F#7] ∧ [0x7E#7, 0x00#7] ≠ [0x7E#7] ∧ [0x7E#7, 0x00#7] ≠ [0x7F#7] := by decide
theorem witness_OtherMessagesArePlain :
    92#7 ∉ [91#7, 93#7, 98#7, 99#7, 100#7, 101#7, 6#7, 38#7, 96#7, 97#7] ∧ (92#7 : Data7) ≠ 121#7 ∧
    [0x7D#7] ∉ [[0x7E#7], [0x7F#7]] := by decide
/-- One witness for each shape. -/
theorem witness_SysExEncodesClosed :
    let shape (id payload : List Data7) : Prop :=
      (id = [] ∧ payload = []) ∨ (∃ d, id = [d] ∧ (d ≠ 0x00#7 ∨ payload = [])) ∨
        (∃ d, id = [0x00#7, d] ∧ payload = []) ∨ (∃ d e, id = [0x00#7, d, e])
    shape [] [] ∧ shape [0x43#7] [1#7] ∧ shape [0x00#7] [] ∧ shape [0x00#7, 0x20#7] [] ∧
      shape [0x00#7, 0x20#7, 0x33#7] [1#7] := by
  simp
theorem witness_EncodedBytesBeginWithTheirStatus :
    encodeMessage (.channelVoice 0#8 (.noteOn 0x40#8 0x7F#8)) = .ok [0x90#8, 0x40#8, 0x7F#8] ∧
    encodeMessage (.systemExclusive [0x43#8] [0x01#8] true) = .ok [0xF0#8, 0x43#8, 0x01#8, 0xF7#8] := by decide
/-- A closed SysEx as long as the cap allows, fed while a Note-On waits. -/
theorem witness_DecodeOfEncodedMessageReturnsIt :
    let p : Sample := { now10 with cfg := { base with sysexMaxPayloadBytes := 1 } }
    let items : List (Sample × Byte) := [(p, 0xF0#8), (p, 0x43#8), (p, 0x01#8), (p, 0xF7#8)]
    let m : PortMsg := .systemExclusive [0x43#8] [0x01#8] true
    LiveWith (channelFirst 0x90#8 2) ∧ encodeMessage m = .ok (items.map Prod.snd) ∧ m.closed = true ∧
    items.head? = some (p, 0xF0#8) ∧ items.getLast? = some (p, 0xF7#8) ∧
    (∀ it ∈ items, it.1.stream = 0 ∧ m.payloadLength ≤ it.1.cfg.sysexMaxPayloadBytes) ∧
    { stateWith (channelFirst 0x90#8 2) with calls := feedCalls items }.calls = feedCalls items ++ [] := by
  decide
/-- Both places of the realtime byte. -/
theorem witness_InterleavedRealtimeLeavesTheMessage :
    let status : Sample × Byte := (now10, 0x9#4 ++ 0#4)
    let data1 : Sample × Byte := (now10, 0#1 ++ 0x40#7)
    let data2 : Sample × Byte := (now10, 0#1 ++ 0x7F#7)
    let realtime : Sample × Byte := (now10, Realtime.clock.byte)
    let before := feedCalls [status, realtime, data1, data2]
    let between := feedCalls [status, data1, realtime, data2]
    LiveWith idle ∧ idle.pending = .idle ∧ (∀ p ∈ [now10, now10, now10, now10], p.stream = 0) ∧
    { stateWith idle with calls := before }.calls = before ++ [] ∧
    { stateWith idle with calls := between }.calls = between ++ [] := by decide
theorem witness_OpenAddsAnEmptyInstance :
    { stateWith idle with calls := [.command .openStream] }.calls = [.command .openStream] := rfl
theorem witness_ResyncEmptiesTheInstance :
    { stateWith (running 0x90#8) with calls := [.command (.resync 0)] }.calls = [.command (.resync 0)] ∧
    LiveWith (running 0x90#8) := by decide
theorem witness_CloseEndsTheInstance :
    { stateWith (running 0x90#8) with calls := [.command (.close 0)] }.calls = [.command (.close 0)] ∧
    LiveWith (running 0x90#8) ∧
    ∀ c ∈ [Call.command (.resync 0), .feed now10 0xF8#8],
      c = .command (.resync 0) ∨ ∃ p b, c = .feed p b ∧ p.stream = 0 := by
  refine ⟨rfl, by decide, ?_⟩
  intro c h
  simp only [List.mem_cons, List.not_mem_nil, or_false] at h
  obtain rfl | rfl := h
  · exact .inl rfl
  · exact .inr ⟨_, _, rfl, rfl⟩
theorem witness_EncodeCallTransmitsItsResult :
    { State.reset with calls := [.command (.encode (.systemRealtime .clock))] }.calls =
      [.command (.encode (.systemRealtime .clock))] := rfl
theorem witness_FourteenBitViewsAreExact :
    (∀ o ∈ [(-8192 : Int), 0, 8191], -8192 ≤ o ∧ o ≤ 8191) ∧
    ∀ o ∈ [(-8193 : Int), 8192], o < -8192 ∨ 8191 < o := by decide
theorem witness_StepsOfDifferentStreamsCommute :
    let s : State := { stateWith idle with streams := [streamWith idle, streamWith (running 0xC0#8)] }
    let q : Sample := { now10 with stream := 1 }
    now10.stream ≠ q.stream ∧
    (∃ t u, exec .clock { s with port := now10 } = .next t ∧ exec (.data 1#7) { t with port := q } = .next u) ∧
    ∃ t' u', exec (.data 1#7) { s with port := q } = .next t' ∧ exec .clock { t' with port := now10 } = .next u' :=
  ⟨by decide, ⟨_, _, rfl, rfl⟩, _, _, rfl, rfl⟩

end Sys2Proof.Tests
end

section
/-! PROOFS. The statements of spec/00_scope.md: a step is the acceptance of one byte. -/

namespace Sys2Proof.Machine

/-- Decoding takes the first byte alone; the bytes after it only name the row (log 2). -/
theorem decode_cons_eq_instr_iff {b : Byte} {rest tail : List Byte} {i : Instr} :
    decode (b :: rest) = .instr i tail ↔ decodeByte b (nextOfMessage rest) = i ∧ rest = tail := by
  rw [decode_cons, Decoded.instr.injEq]

/-- Settles O5: the step runs `decodeByte` of the accepted byte (`step_feed`), and that is the instruction
`decode` reads from the byte and the stream's input after it. -/
theorem stepRunsTheAcceptedByte : Obligations.StepRunsTheAcceptedByte := by
  intro s p b rest i tail hcalls hdecode
  obtain ⟨hi, -⟩ := decode_cons_eq_instr_iff.mp hdecode
  rw [step_feed hcalls, hi, State.accept]

end Sys2Proof.Machine
end

section
/-! PROOFS. What a step writes beside `DS`: the classifier state and the events
(spec/10_state.md R26, R41). -/

namespace Sys2Proof.Machine

/-- A property of the classifier state and a step's events that both output operations keep: an error
report (R92) and the emission of a classified message (R105). -/
structure KeptByOutput (p : Sample) (P : ClassifierState → List Event → Prop) : Prop where
  error : ∀ {cs evs} (k : ErrorKind), P cs evs → P cs (evs ++ [errorEvent p k])
  message : ∀ {cs evs} (m : Msg) (t : Time) (h : Option HwTime) (k : Option ErrorKind), P cs evs →
    P (classify p.cfg m cs).2 (evs ++ [messageEvent p m (classify p.cfg m cs).1 t h k])

namespace KeptByOutput

variable {p : Sample} {P : ClassifierState → List Event → Prop} {w w' : Work}

/-- The closing event of R93 is an error, or a SysEx message, which the classifier state ignores. -/
theorem after_closingEvents (hP : KeptByOutput p P) (q : Pending) (hw : P w.cs w.events) :
    P w.cs (w.events ++ closingEvents p q) := by
  cases q with
  | idle => simpa [closingEvents] using hw
  | await _ => exact hP.error _ hw
  | inSysEx a =>
    rw [closingEvents]
    split
    · exact hP.error _ hw
    · exact hP.message (.systemExclusive a.id a.payload false) _ _ _ hw

theorem after_channelStatus (hP : KeptByOutput p P) (b : Byte) (need : Nat) (hw : P w.cs w.events) :
    P (channelStatus p b need w).cs (channelStatus p b need w).events := by
  rw [channelStatus_eq]
  exact hP.after_closingEvents _ hw

theorem after_commonStatus (hP : KeptByOutput p P) (hw : P w.cs w.events) :
    P (commonStatus p w).cs (commonStatus p w).events := by
  rw [commonStatus_eq]
  exact hP.after_closingEvents _ hw

theorem after_eoxInSysEx (hP : KeptByOutput p P) (a : SysExAcc) (hw : P w.cs w.events) :
    P (eoxInSysEx p a w).cs (eoxInSysEx p a w).events := by
  rw [eoxInSysEx]
  split
  · exact hw
  · exact hP.message _ _ _ _ hw

theorem after_unmatchedEox (hP : KeptByOutput p P) (hw : P w.cs w.events) :
    P (unmatchedEox p w).cs (unmatchedEox p w).events := by
  rw [unmatchedEox]
  split
  · exact hP.message _ _ _ _ hw
  · exact hP.error _ hw

theorem after_awaitData (hP : KeptByOutput p P) {q : Partial} {b : Data7} (h : awaitData q b p w = some w')
    (hw : P w.cs w.events) : P w'.cs w'.events := by
  rw [awaitData] at h
  split at h
  · obtain ⟨m, -, rfl⟩ := Option.map_eq_some_iff.mp h
    exact hP.message _ _ _ _ hw
  · cases h
    exact hw

theorem after_runningData (hP : KeptByOutput p P) {s : Byte} {b : Data7} (h : runningData s b p w = some w')
    (hw : P w.cs w.events) : P w'.cs w'.events := by
  rw [runningData] at h
  split at h
  · obtain ⟨m, -, rfl⟩ := Option.map_eq_some_iff.mp h
    exact hP.message _ _ _ _ hw
  · cases h
    exact hw
  · cases h

theorem after_sysExData (hP : KeptByOutput p P) (a : SysExAcc) (b : Data7) (hw : P w.cs w.events) :
    P (sysExData a b p w).cs (sysExData a b p w).events := by
  rw [sysExData]
  split
  · exact hw
  split
  · exact hw
  split
  · exact hP.error _ hw
  · exact hw

theorem after_dataStep (hP : KeptByOutput p P) {b : Data7} (h : dataStep b p w = some w')
    (hw : P w.cs w.events) : P w'.cs w'.events := by
  rw [dataStep] at h
  split at h
  · cases h
    exact hP.after_sysExData _ b hw
  · exact hP.after_awaitData h hw
  split at h
  · exact hP.after_runningData h hw
  · cases h
    exact hP.error _ hw

/-- A handler touches the classifier state and the events by output operations only. -/
theorem after_handler (hP : KeptByOutput p P) {j : Instr} (h : handler j p w = some w')
    (hw : P w.cs w.events) : P w'.cs w'.events := by
  cases j with
  | data b => exact hP.after_dataStep h hw
  | eox =>
    cases h
    split
    · exact hP.after_eoxInSysEx _ hw
    · exact hP.after_unmatchedEox (hP.after_commonStatus hw)
    · exact hP.after_unmatchedEox (hP.after_commonStatus hw)
  | sysexStart | mtcQuarterFrame | songPosition | songSelect =>
    cases h
    exact hP.after_commonStatus hw
  | undefF4 | undefF5 =>
    cases h
    exact hP.error _ (hP.after_commonStatus hw)
  | tuneRequest =>
    cases h
    exact hP.message _ _ _ _ (hP.after_commonStatus hw)
  | undefF9 | undefFD =>
    cases h
    exact hP.error _ hw
  | clock | start | continueMsg | stop | activeSensing | reset =>
    cases h
    exact hP.message _ _ _ _ hw
  | noteOff | noteOn | polyPressure | controlChange | channelMode | programChange | channelPressure
  | pitchBend =>
    cases h
    exact hP.after_channelStatus _ _ hw

end KeptByOutput

/-- An event as the step that holds the sample `p` produces it (R41, R220). -/
def Event.Stamped (p : Sample) (e : Event) : Prop := e.atTime = p.now ∧ e.ok = true

/-- Both output operations add one event with the `now` of the step. -/
theorem stamped_keptByOutput (p : Sample) : KeptByOutput p fun _ evs => ∀ e ∈ evs, e.Stamped p where
  error _ h := List.forall_mem_append.mpr ⟨h, List.forall_mem_singleton.mpr ⟨rfl, rfl⟩⟩
  message _ _ _ _ h := List.forall_mem_append.mpr ⟨h, List.forall_mem_singleton.mpr ⟨rfl, rfl⟩⟩

/-- Both output operations keep the classifier state as the rules leave it. -/
theorem classifierOk_keptByOutput (p : Sample) : KeptByOutput p fun cs _ => cs.ok = true where
  error _ h := h
  message m _ _ _ h := classify_ok p.cfg m h

/-- Every event of a step is stamped by the step. -/
theorem handler_events_stamped {j : Instr} {p : Sample} {i : Instance} {w : Work}
    (h : handler j p i.work = some w) : ∀ e ∈ w.events, e.Stamped p :=
  (stamped_keptByOutput p).after_handler h (by simp)

/-- Settles O47: the events of the end state are those of the handler, which are stamped one by one. -/
theorem eventsCarryTheNowOfTheirStep : Obligations.EventsCarryTheNowOfTheirStep := by
  intro s t x i i' j new e hlive hexec ht he
  obtain ⟨w, hw, rfl⟩ := exec_next_of_live hlive hexec
  obtain ⟨-, rfl⟩ := State.stepped_injective hlive ht
  obtain ⟨hnow, hok⟩ := handler_events_stamped hw e he
  exact ⟨hnow, by simpa [Event.ok] using hok⟩

end Sys2Proof.Machine
end

section
/-! PROOFS. What each class of bytes does to `DS` (spec/10_state.md R16, R19, R20;
spec/40_decoder_step.md R94 to R98). -/

namespace Sys2Proof.Machine

/-- The byte classes of R63 and R64, by the instructions they hold. -/
theorem instr_class_cases (j : Instr) :
    j.isChannelStatus = true ∨ j.isCommonStatus = true ∨ j = .eox ∨ j.isRealtime = true ∨ ∃ v, j = .data v := by
  cases j <;> simp [Instr.isChannelStatus, Instr.isCommonStatus, Instr.isRealtime]

/-- The status bytes of the channel kinds are those of [0x80, 0xEF] (R64). -/
theorem statusByte_range (k c : BitVec 4) (h : k ∈ [0x8#4, 0x9#4, 0xA#4, 0xB#4, 0xC#4, 0xD#4, 0xE#4]) :
    0x80#8 ≤ statusByte k c ∧ statusByte k c ≤ 0xEF#8 := by
  revert k c; decide

@[simp] theorem report_ds (p : Sample) (e : ErrorKind) (w : Work) : (report p e w).ds = w.ds := rfl
@[simp] theorem emit_ds (p : Sample) (m : Msg) (t : Time) (h : Option HwTime) (w : Work) :
    (emit p m t h w).ds = w.ds := rfl
@[simp] theorem channelStatus_ds (p : Sample) (b : Byte) (need : Nat) (w : Work) :
    (channelStatus p b need w).ds =
      { runningStatus := some b, pending := .await (.first b need p.now p.hw) } := by
  rw [channelStatus_eq]
@[simp] theorem commonStatus_ds (p : Sample) (w : Work) :
    (commonStatus p w).ds = { runningStatus := none, pending := .idle } := by
  rw [commonStatus_eq]
@[simp] theorem enterAwait_ds (p : Sample) (b : Byte) (need : Nat) (w : Work) :
    (enterAwait p b need w).ds = { w.ds with pending := .await (.first b need p.now p.hw) } := rfl
@[simp] theorem unmatchedEox_ds (p : Sample) (w : Work) : (unmatchedEox p w).ds = w.ds := by
  rw [unmatchedEox]; split <;> rfl
@[simp] theorem eoxInSysEx_ds (p : Sample) (a : SysExAcc) (w : Work) :
    (eoxInSysEx p a w).ds = { w.ds with pending := .idle } := by
  rw [eoxInSysEx]; split <;> rfl

/-- A channel status byte runs `ChannelStatus` with its own byte and that byte's `NeedOf` (R94, R115). -/
theorem handler_channelStatus {j : Instr} (h : j.isChannelStatus = true) :
    ∃ b need, (encode j).head? = some b ∧ (0x80#8 ≤ b ∧ b ≤ 0xEF#8) ∧ needOf b = some need ∧
      (need = 1 ∨ need = 2) ∧ ∀ p w, handler j p w = some (channelStatus p b need w) := by
  cases j <;> cases h
  case noteOff c => exact ⟨_, 2, rfl, statusByte_range _ c (by simp), needOf_noteOff c, .inr rfl, fun _ _ => rfl⟩
  case noteOn c => exact ⟨_, 2, rfl, statusByte_range _ c (by simp), needOf_noteOn c, .inr rfl, fun _ _ => rfl⟩
  case polyPressure c =>
    exact ⟨_, 2, rfl, statusByte_range _ c (by simp), needOf_polyPressure c, .inr rfl, fun _ _ => rfl⟩
  case controlChange c | channelMode c _ =>
    exact ⟨_, 2, rfl, statusByte_range _ c (by simp), needOf_control c, .inr rfl, fun _ _ => rfl⟩
  case programChange c =>
    exact ⟨_, 1, rfl, statusByte_range _ c (by simp), needOf_programChange c, .inl rfl, fun _ _ => rfl⟩
  case channelPressure c =>
    exact ⟨_, 1, rfl, statusByte_range _ c (by simp), needOf_channelPressure c, .inl rfl, fun _ _ => rfl⟩
  case pitchBend c => exact ⟨_, 2, rfl, statusByte_range _ c (by simp), needOf_pitchBend c, .inr rfl, fun _ _ => rfl⟩

/-- What a byte of [0xF0, 0xF6] leaves in progress: nothing, an empty accumulator, or a System Common
message that waits for its data (R130, R144). -/
def Pending.AfterCommon (p : Sample) (q : Pending) : Prop :=
  q = .idle ∨ q = .inSysEx { id := [], payload := [], ovf := false, t0 := p.now, h0 := p.hw } ∨
    ∃ b need, needOf b = some need ∧ (need = 1 ∨ need = 2) ∧ ¬ b ≤ 0xEF#8 ∧
      q = .await (.first b need p.now p.hw)

theorem handler_commonStatus_ds {j : Instr} {p : Sample} {w w' : Work} (h : j.isCommonStatus = true)
    (hw : handler j p w = some w') :
    ∃ q : Pending, q.AfterCommon p ∧ w'.ds = { runningStatus := none, pending := q } := by
  cases j <;> cases h <;> cases hw
  case sysexStart => exact ⟨_, .inr (.inl rfl), by simp [sysExStart]⟩
  case mtcQuarterFrame =>
    exact ⟨_, .inr (.inr ⟨0xF1#8, 1, by decide, .inl rfl, by decide, rfl⟩), by simp⟩
  case songPosition =>
    exact ⟨_, .inr (.inr ⟨0xF2#8, 2, by decide, .inr rfl, by decide, rfl⟩), by simp⟩
  case songSelect =>
    exact ⟨_, .inr (.inr ⟨0xF3#8, 1, by decide, .inl rfl, by decide, rfl⟩), by simp⟩
  case undefF4 | undefF5 | tuneRequest => exact ⟨_, .inl rfl, by simp⟩

/-- A realtime byte neither reads nor writes `DS` (R155). -/
theorem handler_realtime_ds {j : Instr} {p : Sample} {w w' : Work} (h : j.isRealtime = true)
    (hw : handler j p w = some w') : w'.ds = w.ds := by
  cases j <;> cases h <;> cases hw <;> rfl

/-! The conditions of `DecoderState.ok`, one lemma for each shape of `pending`. -/

theorem DecoderState.ok_idle_iff (r : Option Byte) :
    DecoderState.ok { runningStatus := r, pending := .idle } = true ↔ runningOk r = true := by
  simp [DecoderState.ok]

theorem DecoderState.ok_await_iff (r : Option Byte) (q : Partial) :
    DecoderState.ok { runningStatus := r, pending := .await q } = true ↔
      runningOk r = true ∧ q.ok r = true := by
  simp [DecoderState.ok]

theorem DecoderState.ok_inSysEx_iff (r : Option Byte) (a : SysExAcc) :
    DecoderState.ok { runningStatus := r, pending := .inSysEx a } = true ↔ r = none ∧ a.wf = true := by
  cases r <;> simp [DecoderState.ok, runningOk]

theorem runningOk_some_iff (b : Byte) : runningOk (some b) = true ↔ 0x80#8 ≤ b ∧ b ≤ 0xEF#8 := by
  simp [runningOk]

/-- A message that has its status only (R115, R144). -/
theorem Partial.ok_first {b : Byte} {need : Nat} {r : Option Byte} (t : Time) (h : Option HwTime)
    (hneed : needOf b = some need) (hn : need = 1 ∨ need = 2)
    (hr : b ≤ 0xEF#8 ∧ r = some b ∨ ¬ b ≤ 0xEF#8 ∧ r = none) : (Partial.first b need t h).ok r = true := by
  obtain ⟨hb, rfl⟩ | ⟨hb, rfl⟩ := hr <;> simp [Partial.ok, Partial.first, hneed, hb, hn]

/-- A message under running status that has its first data byte (R97). -/
theorem Partial.ok_second {b : Byte} (d : Data7) (t : Time) (h : Option HwTime) (hneed : needOf b = some 2)
    (hb : b ≤ 0xEF#8) : (Partial.second b d t h).ok (some b) = true := by
  simp [Partial.ok, Partial.second, hneed, hb]

/-- Keeping the first of two data bytes (R96). -/
theorem Partial.ok_keepFirst {q : Partial} {r : Option Byte} (d : Data7) (hq : q.ok r = true)
    (hmore : q.collected + 1 ≠ q.need) : Partial.ok { q with collected := 1, d0 := some d } r = true := by
  simp only [Partial.ok, Bool.and_eq_true, Bool.or_eq_true, beq_iff_eq] at hq ⊢
  obtain ⟨⟨hneed, hshape⟩, hr⟩ := hq
  have h2 : q.need = 2 := by omega
  exact ⟨⟨hneed, by simp [h2]⟩, hr⟩

/-! A data byte leaves running status alone and `DS` as the rules leave it, by the branches of `Data(b)`. -/

section
variable {p : Sample} {b : Data7} {w w' : Work}

theorem awaitData_ds_ok {q : Partial} (h : awaitData q b p w = some w')
    (hr : runningOk w.ds.runningStatus = true) (hq : q.ok w.ds.runningStatus = true) :
    w'.ds.runningStatus = w.ds.runningStatus ∧ w'.ds.ok = true := by
  rw [awaitData] at h
  split at h
  · obtain ⟨m, -, rfl⟩ := Option.map_eq_some_iff.mp h
    exact ⟨rfl, (DecoderState.ok_idle_iff _).mpr hr⟩
  · rename_i hmore
    cases h
    exact ⟨rfl, (DecoderState.ok_await_iff _ _).mpr ⟨hr, Partial.ok_keepFirst b hq hmore⟩⟩

theorem runningData_ds_ok {s : Byte} (h : runningData s b p w = some w') (hok : w.ds.ok = true)
    (hs : w.ds.runningStatus = some s) (hr : runningOk (some s) = true) :
    w'.ds.runningStatus = w.ds.runningStatus ∧ w'.ds.ok = true := by
  rw [runningData] at h
  split at h
  · obtain ⟨m, -, rfl⟩ := Option.map_eq_some_iff.mp h
    exact ⟨rfl, hok⟩
  · rename_i hneed
    cases h
    have hq := Partial.ok_second b p.now p.hw hneed ((runningOk_some_iff s).mp hr).2
    rw [← hs] at hr hq
    exact ⟨rfl, (DecoderState.ok_await_iff _ _).mpr ⟨hr, hq⟩⟩
  · cases h

/-- Inside a SysEx a data byte leaves an accumulator of the form of R20 (R131, R136, R137). -/
theorem sysExData_pending (p : Sample) (b : Data7) (w : Work) {a : SysExAcc}
    (hp : w.ds.pending = .inSysEx a) (ha : a.wf = true) :
    ∃ a' : SysExAcc, a'.wf = true ∧ (sysExData a b p w).ds = { w.ds with pending := .inSysEx a' } := by
  rw [sysExData]
  split
  · exact ⟨a, ha, by rw [← hp]⟩
  rename_i hovf
  have hovf : a.ovf = false := by simpa using hovf
  split
  · rename_i hid
    exact ⟨_, SysExAcc.wf_appendId b ha hovf hid, rfl⟩
  rename_i hid
  split
  · exact ⟨_, SysExAcc.wf_discard a, rfl⟩
  · exact ⟨_, SysExAcc.wf_appendPayload b ha hovf hid, rfl⟩

theorem dataStep_ds_ok (h : dataStep b p w = some w') (hok : w.ds.ok = true) :
    w'.ds.runningStatus = w.ds.runningStatus ∧ w'.ds.ok = true := by
  obtain ⟨⟨r, q⟩, cs, evs⟩ := w
  cases q with
  | inSysEx a =>
    cases h
    obtain ⟨rfl, ha⟩ := (DecoderState.ok_inSysEx_iff r a).mp hok
    obtain ⟨a', ha', hds⟩ := sysExData_pending p b ⟨⟨none, .inSysEx a⟩, cs, evs⟩ rfl ha
    rw [hds]
    exact ⟨rfl, (DecoderState.ok_inSysEx_iff _ _).mpr ⟨rfl, ha'⟩⟩
  | await q =>
    obtain ⟨hr, hq⟩ := (DecoderState.ok_await_iff r q).mp hok
    exact awaitData_ds_ok h hr hq
  | idle =>
    cases r with
    | none =>
      cases h
      exact ⟨rfl, hok⟩
    | some s => exact runningData_ds_ok h hok rfl ((DecoderState.ok_idle_iff _).mp hok)

end

/-- After EOX nothing is in progress and there is no running status: inside a SysEx there was none (R133),
elsewhere it is cleared (R134, R144). -/
theorem handler_eox_ds {p : Sample} {w w' : Work} (h : handler .eox p w = some w') (hok : w.ds.ok = true) :
    w'.ds = .fresh := by
  obtain ⟨⟨r, q⟩, cs, evs⟩ := w
  cases h
  cases q with
  | inSysEx a =>
    obtain ⟨rfl, -⟩ := (DecoderState.ok_inSysEx_iff r a).mp hok
    exact eoxInSysEx_ds p a _
  | idle | await _ => exact (unmatchedEox_ds p _).trans (commonStatus_ds p _)

/-- What a byte of [0xF0, 0xF6] leaves in progress is as the rules leave it, without running status. -/
theorem Pending.AfterCommon.ok {p : Sample} {q : Pending} (h : q.AfterCommon p) :
    DecoderState.ok { runningStatus := none, pending := q } = true := by
  obtain rfl | rfl | ⟨b, need, hneed, hn, hb, rfl⟩ := h
  · rfl
  · rfl
  · exact (DecoderState.ok_await_iff _ _).mpr ⟨rfl, Partial.ok_first _ _ hneed hn (.inr ⟨hb, rfl⟩)⟩

/-- Every handler keeps `DS` as the rules leave it (R16, R19, R20). -/
theorem handler_ds_ok {j : Instr} {p : Sample} {w w' : Work} (h : handler j p w = some w')
    (hok : w.ds.ok = true) : w'.ds.ok = true := by
  rcases instr_class_cases j with hj | hj | rfl | hj | ⟨v, rfl⟩
  · obtain ⟨b, need, -, hb, hneed, hn, hrun⟩ := handler_channelStatus hj
    cases (hrun p w).symm.trans h
    rw [channelStatus_ds]
    exact (DecoderState.ok_await_iff _ _).mpr
      ⟨(runningOk_some_iff b).mpr hb, Partial.ok_first _ _ hneed hn (.inl ⟨hb.2, rfl⟩)⟩
  · obtain ⟨q, hq, hds⟩ := handler_commonStatus_ds hj h
    rw [hds]
    exact hq.ok
  · rw [handler_eox_ds h hok]
    rfl
  · rwa [handler_realtime_ds hj h]
  · exact (dataStep_ds_ok h hok).2

end Sys2Proof.Machine
end

section
/-! PROOFS. The statements of spec/10_state.md about the invariant, running status and reset. -/

namespace Sys2Proof.Machine

theorem State.ok_iff (s : State) : s.ok = true ↔ ∀ x ∈ s.streams, x.ok = true := List.all_eq_true

theorem Instance.ok_iff (i : Instance) : i.ok = true ↔ i.ds.ok = true ∧ i.cs.ok = true := Bool.and_eq_true_iff

theorem Stream.ok_iff (x : Stream) :
    x.ok = true ↔ (∀ i, x.inst = some i → i.ok = true) ∧ ∀ e ∈ x.events, e.ok = true := by
  obtain ⟨_ | i, evs⟩ := x <;> simp [Stream.ok]

/-- The stream that `open` adds (R261). -/
theorem Stream.ok_fresh : Stream.ok { inst := some .fresh, events := [] } = true := by decide

/-- Replacing one stream by one that meets the invariant keeps it. -/
theorem State.ok_set {s : State} (k : Nat) {x : Stream} (h : s.ok = true) (hx : x.ok = true) :
    State.ok { s with streams := s.streams.set k x } = true := by
  rw [State.ok_iff] at h ⊢
  intro y hy
  rcases List.mem_or_eq_of_mem_set hy with hy | rfl
  · exact h y hy
  · exact hx

/-- A stream of a state that meets the invariant meets it. -/
theorem State.ok_stream {s : State} {k : Nat} {x : Stream} (h : s.ok = true) (hx : s.streams[k]? = some x) :
    x.ok = true :=
  (State.ok_iff s).mp h x (List.mem_of_getElem? hx)

theorem State.ok_of_live {s : State} {x : Stream} {i : Instance} (h : s.ok = true) (hl : s.Live x i) :
    i.ds.ok = true ∧ i.cs.ok = true :=
  (Instance.ok_iff i).mp (((Stream.ok_iff x).mp (State.ok_stream h hl.1)).1 i hl.2)

/-- Every instruction keeps the invariant. -/
theorem exec_ok {j : Instr} {s t : State} (hok : s.ok = true) (h : exec j s = .next t) : t.ok = true := by
  obtain ⟨x, i, w, hlive, hw, rfl⟩ := exec_next h
  obtain ⟨hds, hcs⟩ := State.ok_of_live hok hlive
  have hold := ((Stream.ok_iff x).mp (State.ok_stream hok hlive.1)).2
  refine State.ok_set _ hok ((Stream.ok_iff _).mpr ⟨?_, ?_⟩)
  · rintro i' ⟨⟩
    exact (Instance.ok_iff _).mpr
      ⟨handler_ds_ok hw hds, (classifierOk_keptByOutput s.port).after_handler hw hcs⟩
  · exact List.forall_mem_append.mpr ⟨hold, fun e he => (handler_events_stamped hw e he).2⟩

/-- Everything a command on an existing stream can do (R262, R263). -/
theorem onInstance_next {k : Nat} {f : Instance → Option Instance} {s t : State}
    (h : onInstance k f s = .next t) :
    ∃ x i, s.streams[k]? = some x ∧ x.inst = some i ∧
      t = { s with streams := s.streams.set k { x with inst := f i } } := by
  unfold onInstance at h
  split at h
  · cases h
  · rename_i x hx
    split at h
    · cases h
    · rename_i i hi
      cases h
      exact ⟨x, i, hx, hi, rfl⟩

theorem onInstance_ok {k : Nat} {f : Instance → Option Instance} {s t : State} (hok : s.ok = true)
    (hf : ∀ i i', f i = some i' → i'.ok = true) (h : onInstance k f s = .next t) : t.ok = true := by
  obtain ⟨x, i, hx, -, rfl⟩ := onInstance_next h
  have hold := ((Stream.ok_iff x).mp (State.ok_stream hok hx)).2
  exact State.ok_set k hok ((Stream.ok_iff _).mpr ⟨hf i, hold⟩)

/-- Every command of the host keeps the invariant. -/
theorem runCommand_ok {c : Command} {s t : State} (hok : s.ok = true) (h : runCommand c s = .next t) :
    t.ok = true := by
  cases c with
  | openStream =>
    cases h
    rw [State.ok_iff] at hok ⊢
    exact List.forall_mem_append.mpr ⟨hok, List.forall_mem_singleton.mpr Stream.ok_fresh⟩
  | resync k =>
    refine onInstance_ok hok ?_ h
    rintro - i' ⟨⟩
    decide
  | close k => exact onInstance_ok hok (by simp) h
  | encode m =>
    cases h
    exact hok

/-- Settles O9: a step is quiet, an instruction or a command, and each keeps the invariant. -/
theorem stepKeepsTheInvariant : Obligations.StepKeepsTheInvariant := by
  intro s t hok h
  obtain ⟨-, rfl⟩ | ⟨p, b, rest, j, -, -, hexec⟩ | ⟨c, rest, -, hrun⟩ := step_next h
  · exact hok
  · exact exec_ok (s := s.accept p rest) hok hexec
  · exact runCommand_ok (s := { s with calls := rest }) hok hrun

/-- Settles O50: by the byte classes, what each does to `DS`. -/
theorem runningStatusFollowsTheStatusBytes : Obligations.RunningStatusFollowsTheStatusBytes := by
  intro s t x y i i' j hok hlive hexec hlive'
  obtain ⟨w, hw, rfl⟩ := exec_next_of_live hlive hexec
  obtain ⟨-, rfl⟩ := (State.stepped_live hlive _ _).unique hlive'
  have hds := (State.ok_of_live hok hlive).1
  refine ⟨fun hj => ?_, ?_, ?_⟩
  · obtain ⟨b, need, hb, -, -, -, hrun⟩ := handler_channelStatus hj
    cases (hrun _ _).symm.trans hw
    rw [channelStatus_ds, hb]
  · rintro (hj | rfl)
    · obtain ⟨q, -, hq⟩ := handler_commonStatus_ds hj hw
      rw [hq]
    · rw [handler_eox_ds hw hds]
      rfl
  · rintro (hj | ⟨v, rfl⟩)
    · rw [handler_realtime_ds hj hw]
      rfl
    · exact (dataStep_ds_ok hw hds).1

/-- After `open` nothing is selected on any channel (R43, R261). -/
@[simp] theorem ClassifierState.sel_fresh (c : Channel) : ClassifierState.fresh.sel c = .empty := by
  simp [ClassifierState.sel, ClassifierState.fresh]

/-- Settles O7: the one stream of `State.reset` holds `Instance.fresh`. -/
theorem resetIsOneEmptyInstance : Obligations.ResetIsOneEmptyInstance := by
  refine ⟨_, .fresh, rfl, rfl, rfl, rfl, rfl, fun c => ?_⟩
  have hsel : Instance.fresh.cs.sel c = .empty := ClassifierState.sel_fresh c
  rw [hsel]
  exact ⟨rfl, rfl, rfl, rfl, rfl⟩

/-- Settles O8: the one stream after reset is the fresh one. -/
theorem resetMeetsTheInvariant : Obligations.ResetMeetsTheInvariant :=
  (State.ok_iff _).mpr (List.forall_mem_singleton.mpr Stream.ok_fresh)

end Sys2Proof.Machine
end

section
/-! PROOFS. The statements of spec/20_memory.md: every byte is the first word of the instruction it decodes
to, and an instruction touches the addressed stream alone. -/

namespace Sys2Proof

/-- The instruction is well formed and its first word is `b`. -/
def Instr.IsRowOf (i : Instr) (b : Byte) : Prop := i.wellFormed = true ∧ (encode i).head? = some b

/-- Both rows of 0xBn have that byte as their first word (R77, R84). -/
theorem decodeControl_isRowOf (c : Channel) (next : Option Byte) :
    (decodeControl c next).IsRowOf (statusByte 0xB#4 c) := by
  obtain h | ⟨n, h, hn⟩ := decodeControl_cases c next <;> rw [h]
  · exact ⟨rfl, rfl⟩
  · exact ⟨hn, rfl⟩

/-- The kind nibbles of the status bytes below 0xF0 (R64, R66). -/
theorem kindNibble_of_channelStatus {b : Byte} (hs : isStatus b = true) (hc : ¬ 0xF0#8 ≤ b) :
    kindNibble b ∈ [0x8#4, 0x9#4, 0xA#4, 0xB#4, 0xC#4, 0xD#4, 0xE#4] := by
  revert b; decide

/-- A channel status byte is put together again from the kind of its row and its channel (R65, R66). -/
theorem decodeChannel_isRowOf {b : Byte} (next : Option Byte) (hs : isStatus b = true) (hc : ¬ 0xF0#8 ≤ b) :
    (decodeChannel b next).IsRowOf b := by
  have hk := kindNibble_of_channelStatus hs hc
  rw [← statusByte_kindNibble b]
  generalize kindNibble b = k at hk ⊢
  generalize channelOf b = c
  simp only [List.mem_cons, List.not_mem_nil, or_false] at hk
  rcases hk with rfl | rfl | rfl | rfl | rfl | rfl | rfl <;>
    simp only [decodeChannel, kindNibble_statusByte, channelOf_statusByte]
  -- the nibble 0xB, the only one with two rows
  case inr.inr.inr.inl => exact decodeControl_isRowOf c next
  all_goals exact ⟨rfl, rfl⟩

/-- Each of the bytes 0xF0 to 0xF7 is the word of its row (R68). -/
theorem decodeSystemCommon_isRowOf {b : Byte} (hc : 0xF0#8 ≤ b) (hr : isRealtime b = false) :
    (decodeSystemCommon b).IsRowOf b := by
  unfold Instr.IsRowOf
  revert b; decide

/-- Each of the bytes 0xF8 to 0xFF is the word of its row (R69). -/
theorem decodeRealtime_isRowOf {b : Byte} (hr : isRealtime b = true) : (decodeRealtime b).IsRowOf b := by
  unfold Instr.IsRowOf
  revert b; decide

/-- Every byte is the first word of the instruction it decodes to, whatever follows it (R46). -/
theorem decodeByte_isRowOf (b : Byte) (next : Option Byte) : (decodeByte b next).IsRowOf b := by
  unfold decodeByte
  split
  · exact decodeRealtime_isRowOf ‹_›
  rename_i hr
  split
  · exact decodeSystemCommon_isRowOf ‹_› (Bool.eq_false_of_not_eq_true hr)
  rename_i hc
  split
  · exact decodeChannel_isRowOf next ‹_› hc
  · rename_i hs
    exact ⟨rfl, congrArg some (dataByte_dataOf b (Bool.eq_false_of_not_eq_true hs))⟩

/-- Settles O3: decoding takes the first byte, and that byte is the first word of its row. -/
theorem decodedInstructionEncodesToItsByte : Obligations.DecodedInstructionEncodesToItsByte := by
  intro bytes rest i h
  cases bytes with
  | nil => cases h
  | cons b tail =>
    obtain ⟨rfl, rfl⟩ := Machine.decode_cons_eq_instr_iff.mp h
    obtain ⟨hwf, hword⟩ := decodeByte_isRowOf b (nextOfMessage tail)
    exact ⟨hwf, b, rfl, hword⟩

end Sys2Proof

namespace Sys2Proof.Machine

/-- Settles O48: an instruction ends in `State.stepped`, whose frame is one lemma per field. -/
theorem instructionsChangeOnlyTheAddressedStream :
    Obligations.InstructionsChangeOnlyTheAddressedStream := by
  intro s t j h
  obtain ⟨x, i, w, hlive, -, rfl⟩ := exec_next h
  refine ⟨rfl, rfl, rfl, by simp, fun k hk => State.stepped_other s x _ _ hk, fun y i' hlive' => ?_⟩
  obtain ⟨rfl, -⟩ := hlive.unique hlive'
  exact ⟨_, _, State.stepped_addressed hlive _ _⟩

/-- A step of one stream leaves another stream live with the same instance (R58). -/
theorem State.Live.stepped_other {s : State} {p q : Sample} {y : Stream} {i' : Instance}
    (h : State.Live { s with port := q } y i') (hne : q.stream ≠ p.stream) (x : Stream) (i : Instance)
    (e : List Event) : State.Live { State.stepped { s with port := p } x i e with port := q } y i' :=
  ⟨(State.stepped_other { s with port := p } x i e hne).trans h.1, h.2⟩

/-- Settles O58: each handler runs on the same instance in either order, and the two streams are written at
different places. -/
theorem stepsOfDifferentStreamsCommute : Obligations.StepsOfDifferentStreamsCommute := by
  intro s t u t' u' p q j k hne hj hk hk' hj'
  obtain ⟨x, i, w, hx, hw, rfl⟩ := exec_next hj
  obtain ⟨y, i', v, hy, hv, rfl⟩ := exec_next hk'
  obtain ⟨v', hv', rfl⟩ := exec_next_of_live (hy.stepped_other hne.symm _ _ _) hk
  obtain ⟨w', hw', rfl⟩ := exec_next_of_live (hx.stepped_other hne _ _ _) hj'
  obtain rfl : v = v' := Option.some.inj (hv.symm.trans hv')
  obtain rfl : w = w' := Option.some.inj (hw.symm.trans hw')
  exact List.set_comm _ _ hne

end Sys2Proof.Machine
end

section
/-! PROOFS. The statements of spec/30_encoding.md: decoding the words of an instruction gives it back, the
classes of bytes, realtime bytes inside a message, and the 14-bit views. -/

namespace Sys2Proof

/-- Settles O1: the decoder runs on each of the words. -/
theorem specWordsDecodeToTheirRows : Obligations.SpecWordsDecodeToTheirRows := by
  unfold Obligations.SpecWordsDecodeToTheirRows
  decide

/-- Data byte 1 in 120..127 names the row CHANNEL_MODE (R77, R84). -/
theorem decodeControl_dataByte (c : Channel) {n : Data7} (h : (n.extractLsb' 3 4 == 0b1111#4) = true) :
    decodeControl c (some (dataByte n)) = .channelMode c n := by
  rw [decodeControl, isModeController_dataByte, if_pos h, dataOf_dataByte]

/-- The rows of R66 to R69 and R84 tell their words apart; only 0xBn needs the second word. -/
theorem decode_encode {i : Instr} (h : i.wellFormed = true) : decode (encode i) = .instr i (encode i).tail := by
  cases i with
  | controlChange c => rw [encode, decode_cons, decodeByte_control]; rfl
  | channelMode c n =>
    rw [encode, decode_cons, decodeByte_control, nextOfMessage_dataByte, decodeControl_dataByte c h]; rfl
  | noteOff c | noteOn c | polyPressure c | programChange c | channelPressure c | pitchBend c =>
    rw [encode, decode_cons, decodeByte_statusByte _ _ _ (by simp)]
    simp [decodeChannel]
  | data v => rw [encode, decode_cons, decodeByte_dataByte]; rfl
  | sysexStart | mtcQuarterFrame | songPosition | songSelect | undefF4 | undefF5 | tuneRequest | eox
  | clock | undefF9 | start | continueMsg | stop | undefFD | activeSensing | reset => rfl

/-- Settles O2: by the rows, each decoded from its words. -/
theorem decodeOfEncodeIsTheInstruction : Obligations.DecodeOfEncodeIsTheInstruction :=
  fun _ h => decode_encode h

/-! ## The class of a byte -/

section

variable {i : Instr} {b : Byte}

/-- The words of the realtime rows are in [0xF8, 0xFF] (R64, R69). -/
theorem firstWord_of_isRealtime (hi : i.isRealtime = true) (hb : (encode i).head? = some b) :
    0xF8 ≤ b.toNat := by
  cases i <;> cases hi <;> cases hb <;> decide

/-- The words of the System Common rows but EOX are in [0xF0, 0xF6] (R64, R68). -/
theorem firstWord_of_isCommonStatus (hi : i.isCommonStatus = true) (hb : (encode i).head? = some b) :
    0xF0 ≤ b.toNat ∧ b.toNat ≤ 0xF6 := by
  cases i <;> cases hi <;> cases hb <;> decide

theorem firstWord_of_eox (hb : (encode .eox).head? = some b) : b.toNat = 0xF7 := by
  cases hb; rfl

/-- The first words of the channel rows are in [0x80, 0xEF] (R64, R66). -/
theorem firstWord_of_isChannelStatus (hi : i.isChannelStatus = true) (hb : (encode i).head? = some b) :
    0x80 ≤ b.toNat ∧ b.toNat ≤ 0xEF := by
  obtain ⟨b', -, hb', hrange, -⟩ := Machine.handler_channelStatus hi
  obtain rfl : b' = b := Option.some.inj (hb'.symm.trans hb)
  exact hrange

/-- The word of a DATA row is its value (R63). -/
theorem firstWord_of_data {v : Data7} (hb : (encode (.data v)).head? = some b) :
    v.toNat = b.toNat ∧ b.toNat ≤ 0x7F := by
  cases hb
  rw [dataByte_toNat]
  exact ⟨rfl, Nat.le_of_lt_succ v.isLt⟩

end

/-- Settles O4: a byte is the first word of its row, the rows of each class lie in the class's range, and
the ranges are disjoint. -/
theorem everyByteDecodesInItsClass : Obligations.EveryByteDecodesInItsClass := by
  intro b rest
  obtain ⟨-, hword⟩ := decodeByte_isRowOf b (nextOfMessage rest)
  refine ⟨_, decode_cons b rest, ?_⟩
  generalize decodeByte b (nextOfMessage rest) = i at hword
  have hrealtime : i.isRealtime = true → _ := (firstWord_of_isRealtime · hword)
  have hcommon : i.isCommonStatus = true → _ := (firstWord_of_isCommonStatus · hword)
  have heox : i = .eox → b.toNat = 0xF7 := by rintro rfl; exact firstWord_of_eox hword
  have hchannel : i.isChannelStatus = true → _ := (firstWord_of_isChannelStatus · hword)
  have hdata : ∀ v, i = .data v → v.toNat = b.toNat ∧ b.toNat ≤ 0x7F := by
    rintro v rfl; exact firstWord_of_data hword
  have hclass := Machine.instr_class_cases i
  grind

end Sys2Proof

namespace Sys2Proof.Machine

/-! ## A stream's bytes, one after another -/

/-- A stream after one byte with its sample: the handler of the byte runs on the stream's instance. -/
def Stream.serve (x : Stream) (it : Sample × Byte) : Option Stream :=
  x.inst.bind fun i => (handler (decodeByte it.2 none) it.1 i.work).map x.deliver

/-- `serve` is what a `feed` step does to its stream (R90); the bytes still to come do not matter
(R46; log 2). -/
theorem step_feed_serve {s : State} {it : Sample × Byte} {rest : List Call} {x y : Stream}
    (hcalls : s.calls = .feed it.1 it.2 :: rest) (hx : s.streams[it.1.stream]? = some x)
    (hy : x.serve it = some y) :
    ∃ t, step s = .next t ∧ t.calls = rest ∧ t.streams[it.1.stream]? = some y := by
  obtain ⟨i, hi, hy⟩ := Option.bind_eq_some_iff.mp hy
  obtain ⟨w, hw, rfl⟩ := Option.map_eq_some_iff.mp hy
  have hlive : (s.accept it.1 rest).Live x i := ⟨hx, hi⟩
  rw [step_feed hcalls, exec_live hlive (by rwa [handler_decodeByte])]
  exact ⟨_, rfl, rfl, State.stepped_addressed hlive _ _⟩

/-- Feeding bytes to one stream, one byte a step, serves them in order (R61, R271). -/
theorem runSteps_feedCalls {k : Nat} {rest : List Call} {y : Stream} (items : List (Sample × Byte)) :
    ∀ {s : State} {x : Stream}, (∀ it ∈ items, it.1.stream = k) → s.calls = feedCalls items ++ rest →
      s.streams[k]? = some x → items.foldlM Stream.serve x = some y →
      Reaches (runSteps items.length s) fun t => t.calls = rest ∧ t.streams[k]? = some y := by
  induction items with
  | nil =>
    intro s x _ hcalls hx hy
    cases hy
    exact ⟨s, rfl, hcalls, hx⟩
  | cons it items ih =>
    intro s x hk hcalls hx hy
    obtain ⟨rfl, hk⟩ := List.forall_mem_cons.mp hk
    rw [List.foldlM_cons] at hy
    obtain ⟨x', hx', hy⟩ := Option.bind_eq_some_iff.mp hy
    obtain ⟨t, hstep, hcalls', hx''⟩ := step_feed_serve hcalls hx hx'
    rw [List.length_cons, runSteps_succ _ hstep]
    exact ih hk hcalls' hx'' hy

/-! ## The bytes of a Note-On, and realtime bytes -/

/-- A data value is 0 as a word exactly when it is 0 as a number. -/
theorem beq_zero_eq_decide_toNat (v : Data7) : (v == 0#7) = decide (v.toNat = 0) := by
  revert v; decide

section

variable (p : Sample) (evs : List Event) (cs : ClassifierState)

/-- A realtime byte is delivered at once and leaves the instance as it is (R74, R155). -/
theorem serve_realtime (r : Realtime) (i : Instance) :
    Stream.serve { inst := some i, events := evs } (p, r.byte) =
      some { inst := some i
             events := evs ++ [messageEvent p (.systemRealtime r) .plain p.now p.hw none] } := by
  have hbyte : handler (decodeByte r.byte none) p i.work = some (emitRealtime r p i.work) := by
    cases r <;> rfl
  simp [Stream.serve, hbyte, emitRealtime, emit_eq, Stream.deliver, classify]

/-- The status byte of a Note-On, from `Idle`: its sample is latched (R115, R217). -/
theorem serve_noteOn (c : Channel) (rs : Option Byte) :
    Stream.serve { inst := some { ds := { runningStatus := rs, pending := .idle }, cs := cs }, events := evs }
        (p, statusByte 0x9#4 c) =
      some { inst := some { ds := { runningStatus := some (statusByte 0x9#4 c)
                                    pending := .await (.first (statusByte 0x9#4 c) 2 p.now p.hw) }
                            cs := cs }
             events := evs } := by
  have hrow : decodeByte (statusByte 0x9#4 c) none = .noteOn c := by
    rw [decodeByte_statusByte _ _ _ (by simp)]
    simp [decodeChannel]
  simp [Stream.serve, hrow, handler, channelStatus_eq, closingEvents, Stream.deliver]

/-- The first of two data bytes is kept with the latch (R96). -/
theorem serve_firstOfTwo (rs : Option Byte) (status : Byte) (a : Data7) (t : Time) (h : Option HwTime) :
    Stream.serve { inst := some { ds := { runningStatus := rs, pending := .await (.first status 2 t h) }
                                  cs := cs }
                   events := evs } (p, dataByte a) =
      some { inst := some { ds := { runningStatus := rs, pending := .await (.second status a t h) }, cs := cs }
             events := evs } := by
  simp [Stream.serve, handler, dataStep, awaitData, Partial.first, Partial.second, Stream.deliver]

/-- The second data byte completes a Note-On, stamped with the latch (R96, R220). -/
theorem serve_lastOfNoteOn (rs : Option Byte) (c : Channel) (a b : Data7) (t : Time) (h : Option HwTime) :
    Stream.serve { inst := some { ds := { runningStatus := rs
                                          pending := .await (.second (statusByte 0x9#4 c) a t h) }
                                  cs := cs }
                   events := evs } (p, dataByte b) =
      some { inst := some { ds := { runningStatus := rs, pending := .idle }, cs := cs }
             events := evs ++ [messageEvent p (.channelVoice c (.noteOn a b))
               { Ann.plain with aliasNoteOff := p.cfg.velocityZeroIsNoteOff && decide (b.toNat = 0) }
               t h none] } := by
  simp [Stream.serve, handler, dataStep, awaitData, Partial.second, emit_eq, classify, Stream.deliver,
    beq_zero_eq_decide_toNat]

end

/-- Settles O52: in either order the stream serves the four bytes, and the realtime byte leaves the instance
between the Note-On's bytes as it is. -/
theorem interleavedRealtimeLeavesTheMessage : Obligations.InterleavedRealtimeLeavesTheMessage := by
  rintro s k ⟨_, evs⟩ ⟨⟨rs, _⟩, cs⟩ c r a b p0 p1 p2 pr rest hx rfl rfl hk status data1 data2 realtime hcalls
  simp only [List.forall_mem_cons] at hk
  obtain ⟨h0, h1, h2, hr, -⟩ := hk
  obtain hcalls | hcalls := hcalls <;>
    refine runSteps_feedCalls _ (by simp [status, realtime, data1, data2, *]) hcalls hx ?_
  all_goals
    simp [status, realtime, data1, data2, append_eq_statusByte, append_eq_dataByte, serve_noteOn,
      serve_realtime, serve_firstOfTwo, serve_lastOfNoteOn]

/-! ## The 14-bit views -/

/-- The two bytes of a 14-bit value are its digits to the base 128 (R76). -/
theorem splitValue14_eq (v : Nat) : splitValue14 v = (BitVec.ofNat 7 (v % 128), BitVec.ofNat 7 (v / 128)) := by
  rw [splitValue14, Nat.shiftRight_eq_div_pow, Nat.and_two_pow_sub_one_eq_mod v 7]

/-- Splitting gives back the two bytes of a value (R76). -/
theorem splitValue14_value14 (l m : Data7) : splitValue14 (value14 l m) = (l, m) := by
  have hl := l.isLt
  have hlsb : (l.toNat + 128 * m.toNat) % 128 = l.toNat := by omega
  have hmsb : (l.toNat + 128 * m.toNat) / 128 = m.toNat := by omega
  rw [splitValue14_eq, value14_eq, hlsb, hmsb, BitVec.ofNat_toNat, BitVec.ofNat_toNat, BitVec.setWidth_eq,
    BitVec.setWidth_eq]

/-- Every value of 14 bits is put together from the bytes it splits into (R76). -/
theorem value14_splitValue14 {v : Nat} (h : v ≤ 16383) :
    value14 (splitValue14 v).1 (splitValue14 v).2 = v := by
  rw [splitValue14_eq, value14_eq, BitVec.toNat_ofNat, BitVec.toNat_ofNat]
  omega

theorem value14_le (l m : Data7) : value14 l m ≤ 16383 := by
  have hl := l.isLt
  have hm := m.isLt
  rw [value14_eq]
  omega

/-- Settles O57: `value14_eq` and the two inverse laws of `splitValue14`, moved by 0x2000 for the offset. -/
theorem fourteenBitViewsAreExact : Obligations.FourteenBitViewsAreExact := by
  refine ⟨fun c l m => ?_, fun o hlow hhigh => ?_, fun o hout => if_neg (by omega)⟩
  · have hvalue := value14_eq l m
    have hle := value14_le l m
    have hbend : bend l m = (value14 l m : Int) - 8192 := rfl
    exact ⟨hvalue, hle, rfl, rfl, splitValue14_value14 l m, by omega, by omega, by omega⟩
  · have hvalue := value14_splitValue14 (v := (o + 0x2000).toNat) (by omega)
    refine ⟨(splitValue14 (o + 0x2000).toNat).1, (splitValue14 (o + 0x2000).toNat).2,
      if_pos ⟨hlow, hhigh⟩, ?_⟩
    rw [bend, hvalue]
    omega

end Sys2Proof.Machine
end

section
/-! PROOFS. The statements of spec/40_decoder_step.md about the data byte (R95 to R100): what each branch of
`Data(b)` answers. -/

namespace Sys2Proof.Machine

/-! ## The branches of `Data(b)` -/

section
variable {p : Sample} {w : Work} {b : Data7}

theorem dataStep_await {q : Partial} (hq : w.ds.pending = .await q) : dataStep b p w = awaitData q b p w := by
  rw [dataStep, hq]

theorem dataStep_running {s : Byte} (hq : w.ds.pending = .idle) (hr : w.ds.runningStatus = some s) :
    dataStep b p w = runningData s b p w := by
  rw [dataStep, hq, hr]

theorem dataStep_orphan (hq : w.ds.pending = .idle) (hr : w.ds.runningStatus = none) :
    dataStep b p w = some (report p .orphanDataByte w) := by
  rw [dataStep, hq, hr]
  rfl

variable {status : Byte} {t : Time} {h : Option HwTime} {m : Msg}

/-- The only data byte of a message completes it (R96). -/
theorem awaitData_first_one (hm : mkMsg status b none = some m) :
    awaitData (.first status 1 t h) b p w = some (emit p m t h (w.setPending .idle)) := by
  simp [awaitData, Partial.first, hm]

/-- The first of two data bytes is kept with the latch (R96). -/
theorem awaitData_first_two :
    awaitData (.first status 2 t h) b p w = some (w.setPending (.await (.second status b t h))) := rfl

/-- The second data byte completes the message (R96). -/
theorem awaitData_second {a : Data7} (hm : mkMsg status a (some b) = some m) :
    awaitData (.second status a t h) b p w = some (emit p m t h (w.setPending .idle)) := by
  simp [awaitData, Partial.second, hm]

/-- Under a status of one data byte the byte is a whole message (R97). -/
theorem runningData_one (hneed : needOf status = some 1) (hm : mkMsg status b none = some m) :
    runningData status b p w = some (emit p m p.now p.hw w) := by
  simp [runningData, hneed, hm]

/-- Under a status of two data bytes the byte is the first of a new message (R97). -/
theorem runningData_two (hneed : needOf status = some 2) :
    runningData status b p w = some (w.setPending (.await (.second status b p.now p.hw))) := by
  simp [runningData, hneed, Partial.second]

end

/-! ## The next state of a DATA step -/

section
variable {s : State} {x : Stream} {i : Instance} {b : Data7} {status : Byte} {t : Time} {h : Option HwTime}
  {m : Msg}

/-- The step of a data byte that completes a message. -/
theorem exec_data_emit (hl : s.Live x i)
    (hw : dataStep b s.port i.work = some (emit s.port m t h (i.work.setPending .idle))) :
    exec (.data b) s = .next (s.steppedWith x i m t h) :=
  exec_live (j := .data b) hl hw

/-- The step of a data byte that is kept. -/
theorem exec_data_keep {q : Pending} (hl : s.Live x i)
    (hw : dataStep b s.port i.work = some (i.work.setPending q)) :
    exec (.data b) s = .next (s.stepped x { i with ds := { i.ds with pending := q } } []) :=
  exec_live (j := .data b) hl hw

theorem exec_data_onlyByte (hl : s.Live x i) (hm : mkMsg status b none = some m)
    (hq : i.ds.pending = .await (.first status 1 t h)) :
    exec (.data b) s = .next (s.steppedWith x i m t h) :=
  exec_data_emit hl ((dataStep_await hq).trans (awaitData_first_one hm))

theorem exec_data_secondByte {a : Data7} (hl : s.Live x i) (hm : mkMsg status a (some b) = some m)
    (hq : i.ds.pending = .await (.second status a t h)) :
    exec (.data b) s = .next (s.steppedWith x i m t h) :=
  exec_data_emit hl ((dataStep_await hq).trans (awaitData_second hm))

theorem exec_data_runningOne (hl : s.Live x i) (hq : i.ds.pending = .idle)
    (hr : i.ds.runningStatus = some status) (hneed : needOf status = some 1)
    (hm : mkMsg status b none = some m) :
    exec (.data b) s = .next (s.steppedWith x i m s.port.now s.port.hw) := by
  have hidle : i.work.setPending .idle = i.work := by rw [Work.setPending, Instance.work_ds, ← hq]; rfl
  refine exec_data_emit hl ?_
  rw [dataStep_running hq hr, runningData_one hneed hm, hidle]

end

/-- Settles O19: `MkMsg` of each status (R99) under the two completing branches of R96. -/
theorem lastDataByteCompletesTheMessage : Obligations.LastDataByteCompletesTheMessage := by
  intro s x i c a b t h hl two one
  have hcontrol : mkMsg (statusByte 0xB#4 c) a (some b) =
      some (if 120 ≤ a.toNat then .channelMode c a b else .channelVoice c (.controlChange a b)) :=
    mkMsg_control c a b
  exact ⟨exec_data_secondByte hl (mkMsg_noteOff c a b), exec_data_secondByte hl (mkMsg_noteOn c a b),
    exec_data_secondByte hl (mkMsg_polyPressure c a b), exec_data_secondByte hl hcontrol,
    exec_data_onlyByte hl (mkMsg_programChange c b none),
    exec_data_onlyByte hl (mkMsg_channelPressure c b none),
    exec_data_secondByte hl (mkMsg_pitchBend c a b), exec_data_onlyByte hl (mkMsg_mtcQuarterFrame b none),
    exec_data_secondByte hl (mkMsg_songPosition a b), exec_data_onlyByte hl (mkMsg_songSelect b none)⟩

/-- Settles O20: the storing branch of R96. -/
theorem firstOfTwoDataBytesIsKept : Obligations.FirstOfTwoDataBytesIsKept :=
  fun _ _ _ _ _ _ _ hl hq => exec_data_keep hl ((dataStep_await hq).trans awaitData_first_two)

/-- The kinds of two data bytes among the channel statuses (R100). -/
theorem needOf_twoByteKinds {k : BitVec 4} (c : Channel) (hk : k ∈ [0x8#4, 0x9#4, 0xA#4, 0xB#4, 0xE#4]) :
    needOf (statusByte k c) = some 2 := by
  simp only [List.mem_cons, List.not_mem_nil, or_false] at hk
  rcases hk with rfl | rfl | rfl | rfl | rfl <;> simp

/-- Settles O21: running status is of a kind of two data bytes, so the byte is kept with its sample. -/
theorem runningStatusStartsAMessage : Obligations.RunningStatusStartsAMessage :=
  fun _ _ _ _ c _ hl hq hr hk =>
    exec_data_keep hl ((dataStep_running hq hr).trans (runningData_two (needOf_twoByteKinds c hk)))

/-- Settles O22: both kinds need one data byte, and `MkMsg` builds the message from it. -/
theorem runningStatusOneByteKindsCompleteAtOnce : Obligations.RunningStatusOneByteKindsCompleteAtOnce :=
  fun _ _ _ c b hl hq =>
    ⟨fun hr => exec_data_runningOne hl hq hr (needOf_programChange c) (mkMsg_programChange c b none),
      fun hr => exec_data_runningOne hl hq hr (needOf_channelPressure c) (mkMsg_channelPressure c b none)⟩

/-- Settles O23: the reporting branch of R98. -/
theorem orphanDataByteIsReportedAndDropped : Obligations.OrphanDataByteIsReportedAndDropped :=
  fun _ _ _ b hl hq hr => exec_live (j := .data b) hl (dataStep_orphan hq hr)

end Sys2Proof.Machine
end

section
/-! PROOFS. The statements of spec/40_decoder_step.md about every step: it completes (R101), it is a function
of the instance and the inputs (R101, R180), and it delivers at most two events (R103). -/

namespace Sys2Proof.Machine

/-! ## Completion -/

/-- `NeedOf` is 1 or 2 on every running status (R16, R100). -/
theorem needOf_of_runningOk {s : Byte} (h : runningOk (some s) = true) :
    needOf s = some 1 ∨ needOf s = some 2 := by
  revert s; decide

/-- The conditions of `Partial.ok` by the number of data bytes still to come (R19). -/
theorem Partial.ok_cases {q : Partial} {r : Option Byte} (h : q.ok r = true) :
    needOf q.status = some q.need ∧
      (q.need = 1 ∨ q.need = 2 ∧ (q.collected + 1 ≠ q.need ∨ ∃ d, q.d0 = some d)) := by
  simp only [Partial.ok, Bool.and_eq_true, Bool.or_eq_true, beq_iff_eq, Option.isSome_iff_exists] at h
  obtain ⟨⟨hneed, hshape⟩, -⟩ := h
  refine ⟨hneed, ?_⟩
  obtain (⟨⟨hn, -⟩, -⟩ | ⟨⟨hn, hc⟩, -⟩) | ⟨⟨hn, -⟩, hd⟩ := hshape
  · exact .inl hn
  · exact .inr ⟨hn, .inl (by omega)⟩
  · exact .inr ⟨hn, .inr hd⟩

section
variable {b : Data7} {p : Sample} {w : Work}

/-- Where the last awaited byte arrives, `MkMsg` is defined on the latch (R96, R99). -/
theorem awaitData_defined {q : Partial} {r : Option Byte} (hq : q.ok r = true) :
    ∃ w', awaitData q b p w = some w' := by
  obtain ⟨hneed, hshape⟩ := Partial.ok_cases hq
  by_cases hlast : q.collected + 1 = q.need
  · rw [awaitData, if_pos hlast]
    obtain hn | ⟨hn, hmore | ⟨d, hd⟩⟩ := hshape
    · obtain ⟨m, hm⟩ := Option.isSome_iff_exists.mp (mkMsg_isSome b none _ _ hneed (.inl hn))
      simp [hn, hm]
    · exact absurd hlast hmore
    · obtain ⟨m, hm⟩ := Option.isSome_iff_exists.mp (mkMsg_isSome d (some b) _ _ hneed (.inr ⟨hn, rfl⟩))
      simp [hn, hd, hm]
  · exact ⟨_, if_neg hlast⟩

/-- `NeedOf` and `MkMsg` are defined on every running status (R97, R99, R100). -/
theorem runningData_defined {s : Byte} (hs : runningOk (some s) = true) :
    ∃ w', runningData s b p w = some w' := by
  obtain hneed | hneed := needOf_of_runningOk hs
  · obtain ⟨m, hm⟩ := Option.isSome_iff_exists.mp (mkMsg_isSome b none _ _ hneed (.inl rfl))
    exact ⟨_, runningData_one hneed hm⟩
  · exact ⟨_, runningData_two hneed⟩

theorem dataStep_defined (hok : w.ds.ok = true) : ∃ w', dataStep b p w = some w' := by
  obtain ⟨⟨r, q⟩, cs, evs⟩ := w
  cases q with
  | inSysEx a => exact ⟨_, rfl⟩
  | await q => exact awaitData_defined ((DecoderState.ok_await_iff r q).mp hok).2
  | idle =>
    cases r with
    | none => exact ⟨_, rfl⟩
    | some s => exact runningData_defined ((DecoderState.ok_idle_iff _).mp hok)

/-- Only a data byte reads the latches; every other handler is defined on every state. -/
theorem handler_defined (j : Instr) (hok : w.ds.ok = true) : ∃ w', handler j p w = some w' := by
  cases j with
  | data b => exact dataStep_defined hok
  | _ => exact ⟨_, rfl⟩

end

/-- Settles O10: the invariant keeps the latches such that every handler is defined. -/
theorem everyInstructionCompletes : Obligations.EveryInstructionCompletes := by
  intro s x i j hok hl
  obtain ⟨w, hw⟩ := handler_defined (p := s.port) (w := i.work) j (State.ok_of_live hok hl).1
  exact ⟨_, exec_live hl hw⟩

/-! ## What a step depends on -/

/-- No handler reads which stream it serves (R58): samples that differ in nothing else do the same. -/
theorem handler_congr {p p' : Sample} (hcfg : p.cfg = p'.cfg) (hnow : p.now = p'.now) (hhw : p.hw = p'.hw)
    (j : Instr) (w : Work) : handler j p w = handler j p' w := by
  obtain ⟨k, cfg, now, hw⟩ := p
  obtain ⟨k', cfg', now', hw'⟩ := p'
  cases hcfg
  cases hnow
  cases hhw
  cases j <;> rfl

/-- Settles O49: the same handler answers the same working copy on both machines. -/
theorem stepIsAFunctionOfInstanceAndInputs : Obligations.StepIsAFunctionOfInstanceAndInputs := by
  intro s s' t t' x x' i j hl hl' hcfg hnow hhw ht ht'
  obtain ⟨w, hw, rfl⟩ := exec_next_of_live hl ht
  obtain ⟨w', hw', rfl⟩ := exec_next_of_live hl' ht'
  rw [handler_congr hcfg hnow hhw, hw'] at hw
  cases hw
  exact ⟨_, _, rfl, rfl⟩

/-! ## How many events a step delivers -/

/-- The cases of R103 in which a byte may both close a message in progress and deliver an event of its own: a
byte of [0xF4, 0xF6], and 0xF7 in `AwaitingDataByte`. -/
def ClosesAndDelivers (j : Instr) (q : Pending) : Prop :=
  j = .tuneRequest ∨ (j = .undefF4 ∨ j = .undefF5) ∨ j = .eox ∧ ∃ r, q = .await r

theorem closingEvents_length_le (p : Sample) (q : Pending) : (closingEvents p q).length ≤ 1 := by
  cases q with
  | idle => exact Nat.zero_le 1
  | await _ => exact Nat.le_refl 1
  | inSysEx a => rw [closingEvents]; split <;> exact Nat.le_refl 1

theorem channelStatus_events (p : Sample) (s : Byte) (need : Nat) (w : Work) :
    (channelStatus p s need w).events = w.events ++ closingEvents p w.ds.pending := by
  rw [channelStatus_eq]

theorem commonStatus_events (p : Sample) (w : Work) :
    (commonStatus p w).events = w.events ++ closingEvents p w.ds.pending := by
  rw [commonStatus_eq]

/-- An unmatched EOX is one event with the error, whatever the host's policy (R134). -/
theorem unmatchedEox_events (p : Sample) (w : Work) :
    ∃ e : Event, e.err = some .unmatchedEox ∧ (unmatchedEox p w).events = w.events ++ [e] := by
  rw [unmatchedEox]
  split <;> exact ⟨_, rfl, rfl⟩

section
variable {p : Sample} {w w' : Work}

/-- The closing event of R93 is at most one. -/
theorem length_closed_le (w : Work) :
    (w.events ++ closingEvents p w.ds.pending).length ≤ w.events.length + 1 := by
  have := closingEvents_length_le p w.ds.pending
  simp only [List.length_append]
  omega

theorem sysExData_events_length_le (a : SysExAcc) (b : Data7) (p : Sample) (w : Work) :
    (sysExData a b p w).events.length ≤ w.events.length + 1 := by
  rw [sysExData]
  split
  · simp
  split
  · simp
  split
  · simp [sysExOverflow, report_eq]
  · simp

theorem awaitData_events_length_le {q : Partial} {b : Data7} (h : awaitData q b p w = some w') :
    w'.events.length ≤ w.events.length + 1 := by
  rw [awaitData] at h
  split at h
  · obtain ⟨m, -, rfl⟩ := Option.map_eq_some_iff.mp h
    simp [emit_eq]
  · cases h
    simp

theorem runningData_events_length_le {s : Byte} {b : Data7} (h : runningData s b p w = some w') :
    w'.events.length ≤ w.events.length + 1 := by
  rw [runningData] at h
  split at h
  · obtain ⟨m, -, rfl⟩ := Option.map_eq_some_iff.mp h
    simp [emit_eq]
  · cases h
    simp
  · cases h

/-- A data byte delivers at most one event (R95 to R98, R131). -/
theorem dataStep_events_length_le {b : Data7} (h : dataStep b p w = some w') :
    w'.events.length ≤ w.events.length + 1 := by
  rw [dataStep] at h
  split at h
  · cases h
    exact sysExData_events_length_le _ b p w
  · exact awaitData_events_length_le h
  split at h
  · exact runningData_events_length_le h
  · cases h
    simp [orphanData, report_eq]

/-- In `Idle` nothing is closed, and inside a SysEx 0xF7 ends it with its one message (R133, R134). -/
theorem handler_eox_events_length_le (h : handler .eox p w = some w') (hq : ∀ r, w.ds.pending ≠ .await r) :
    w'.events.length ≤ w.events.length + 1 := by
  cases h
  split
  · rw [eoxInSysEx]
    split <;> simp [emit_eq]
  · rename_i hidle
    obtain ⟨e, -, he⟩ := unmatchedEox_events p (commonStatus p w)
    simp [he, commonStatus_events, hidle, closingEvents]
  · exact absurd ‹_› (hq _)

/-- Outside the listed cases a step delivers at most one event. -/
theorem handler_events_length_le {j : Instr} (hj : ¬ ClosesAndDelivers j w.ds.pending)
    (h : handler j p w = some w') : w'.events.length ≤ w.events.length + 1 := by
  cases j with
  | data b => exact dataStep_events_length_le h
  | eox => exact handler_eox_events_length_le h fun r hr => hj (.inr (.inr ⟨rfl, r, hr⟩))
  | tuneRequest => exact absurd (.inl rfl) hj
  | undefF4 => exact absurd (.inr (.inl (.inl rfl))) hj
  | undefF5 => exact absurd (.inr (.inl (.inr rfl))) hj
  | sysexStart | mtcQuarterFrame | songPosition | songSelect =>
    cases h
    exact (congrArg List.length (commonStatus_events p w)).trans_le (length_closed_le w)
  | noteOff | noteOn | polyPressure | controlChange | channelMode | programChange | channelPressure
  | pitchBend =>
    cases h
    exact (congrArg List.length (channelStatus_events p _ _ w)).trans_le (length_closed_le w)
  | undefF9 | undefFD =>
    cases h
    simp [report_eq]
  | clock | start | continueMsg | stop | activeSensing | reset =>
    cases h
    simp [emitRealtime, emit_eq]

/-- 0xF6 delivers its message after the closing event (R143). -/
theorem handler_tuneRequest_events (h : handler .tuneRequest p w = some w') :
    w'.events = w.events ++ closingEvents p w.ds.pending ++
      [messageEvent p (.systemCommon .tuneRequest) .plain p.now p.hw none] := by
  cases h
  rw [emit_eq, commonStatus_events]
  rfl

/-- 0xF4 and 0xF5 are reported after the closing event (R141, R142). -/
theorem handler_undefCommon_events {j : Instr} (hj : j = .undefF4 ∨ j = .undefF5)
    (h : handler j p w = some w') :
    w'.events = w.events ++ closingEvents p w.ds.pending ++ [errorEvent p .undefinedStatus] := by
  obtain rfl | rfl := hj <;> cases h <;> rw [report_eq, commonStatus_events]

/-- 0xF7 in `AwaitingDataByte` is unmatched, after the closing event (R94, R134). -/
theorem handler_eox_events_of_await {r : Partial} (h : handler .eox p w = some w')
    (hq : w.ds.pending = .await r) :
    ∃ e : Event, e.err = some .unmatchedEox ∧
      w'.events = w.events ++ closingEvents p w.ds.pending ++ [e] := by
  obtain ⟨e, herr, he⟩ := unmatchedEox_events p (commonStatus p w)
  refine ⟨e, herr, ?_⟩
  rw [← commonStatus_events, ← he]
  cases h
  rw [hq]

/-- In the listed cases the step's events are the closing event, if there is one, and the byte's own. -/
theorem handler_events_of_closesAndDelivers {j : Instr} (hj : ClosesAndDelivers j w.ds.pending)
    (h : handler j p w = some w') :
    ∃ e, w'.events = w.events ++ closingEvents p w.ds.pending ++ [e] := by
  obtain rfl | hj | ⟨rfl, r, hq⟩ := hj
  · exact ⟨_, handler_tuneRequest_events h⟩
  · exact ⟨_, handler_undefCommon_events hj h⟩
  · obtain ⟨e, -, he⟩ := handler_eox_events_of_await h hq
    exact ⟨e, he⟩

/-- A step delivers at most two events: one of `ClosePending()`, one of the byte (R103). -/
theorem handler_events_length_le_two {j : Instr} (h : handler j p w = some w') :
    w'.events.length ≤ w.events.length + 2 := by
  by_cases hj : ClosesAndDelivers j w.ds.pending
  · obtain ⟨e, he⟩ := handler_events_of_closesAndDelivers hj h
    have := length_closed_le (p := p) w
    rw [he, List.length_append, List.length_singleton]
    omega
  · exact (handler_events_length_le hj h).trans (Nat.le_succ _)

end

/-- Settles O45: the events of the end state are those of the handler. -/
theorem stepDeliversAtMostTwoEvents : Obligations.StepDeliversAtMostTwoEvents := by
  intro s t x i j hl h
  obtain ⟨w, hw, rfl⟩ := exec_next_of_live hl h
  exact ⟨_, _, rfl, by simpa using handler_events_length_le_two hw⟩

/-! ## How many messages and errors a step delivers -/

@[simp] theorem messageCount_nil : messageCount [] = 0 := rfl
@[simp] theorem errorCount_nil : errorCount [] = 0 := rfl

@[simp] theorem messageCount_append (l l' : List Event) :
    messageCount (l ++ l') = messageCount l + messageCount l' := by
  simp [messageCount]

@[simp] theorem errorCount_append (l l' : List Event) :
    errorCount (l ++ l') = errorCount l + errorCount l' := by
  simp [errorCount]

@[simp] theorem messageCount_errorEvent (p : Sample) (k : ErrorKind) : messageCount [errorEvent p k] = 0 := rfl

@[simp] theorem messageCount_messageEvent (p : Sample) (m : Msg) (a : Ann) (t : Time) (h : Option HwTime)
    (k : Option ErrorKind) : messageCount [messageEvent p m a t h k] = 1 := rfl

@[simp] theorem errorCount_errorEvent (p : Sample) (k : ErrorKind) : errorCount [errorEvent p k] = 1 := rfl

@[simp] theorem errorCount_messageEvent_some (p : Sample) (m : Msg) (a : Ann) (t : Time) (h : Option HwTime)
    (k : ErrorKind) : errorCount [messageEvent p m a t h (some k)] = 1 := rfl

theorem errorCount_singleton_of_some {e : Event} {k : ErrorKind} (h : e.err = some k) : errorCount [e] = 1 := by
  simp [errorCount, h]

theorem messageCount_le_length (l : List Event) : messageCount l ≤ l.length := List.length_filter_le ..
theorem errorCount_le_length (l : List Event) : errorCount l ≤ l.length := List.length_filter_le ..

/-- Closing delivers a message exactly for a SysEx that has not overflowed (R93). -/
theorem messageCount_closingEvents (p : Sample) (q : Pending) :
    messageCount (closingEvents p q) = 1 ↔ ∃ a, q = .inSysEx a ∧ a.ovf = false := by
  cases q with
  | idle => simp [closingEvents]
  | await _ => simp [closingEvents]
  | inSysEx a => cases ha : a.ovf <;> simp [closingEvents, ha]

/-- Closing reports an error exactly when a message is in progress (R93). -/
theorem errorCount_closingEvents (p : Sample) (q : Pending) :
    errorCount (closingEvents p q) = 1 ↔ q ≠ .idle := by
  cases q with
  | idle => simp [closingEvents]
  | await _ => simp [closingEvents]
  | inSysEx a => cases ha : a.ovf <;> simp [closingEvents, ha]

/-- What R103 says of two messages and of two errors among the events of a step. -/
def CountsAsListed (j : Instr) (q : Pending) (evs : List Event) : Prop :=
  (messageCount evs = 2 ↔ j = .tuneRequest ∧ ∃ a, q = .inSysEx a ∧ a.ovf = false) ∧
  (errorCount evs = 2 ↔ ((j = .undefF4 ∨ j = .undefF5) ∧ q ≠ .idle) ∨ (j = .eox ∧ ∃ r, q = .await r))

/-- One event has no two of either, and the listed cases are excluded. -/
theorem countsAsListed_of_length_le_one {j : Instr} {q : Pending} {evs : List Event}
    (hj : ¬ ClosesAndDelivers j q) (h : evs.length ≤ 1) : CountsAsListed j q evs := by
  have hm := messageCount_le_length evs
  have he := errorCount_le_length evs
  refine ⟨iff_of_false (by omega) fun ⟨htune, _⟩ => hj (.inl htune), iff_of_false (by omega) ?_⟩
  rintro (⟨hundef, -⟩ | heox)
  · exact hj (.inr (.inl hundef))
  · exact hj (.inr (.inr heox))

section
variable {p : Sample} {q : Pending} {e : Event}

theorem countsAsListed_tuneRequest (hmsg : messageCount [e] = 1) (herr : errorCount [e] = 0) :
    CountsAsListed .tuneRequest q (closingEvents p q ++ [e]) := by
  have hc := (errorCount_le_length _).trans (closingEvents_length_le p q)
  refine ⟨?_, iff_of_false ?_ (by simp)⟩
  · rw [messageCount_append, hmsg, ← messageCount_closingEvents p q]
    simp
  · rw [errorCount_append, herr]
    omega

theorem countsAsListed_undefCommon {j : Instr} (hj : j = .undefF4 ∨ j = .undefF5) (hmsg : messageCount [e] = 0)
    (herr : errorCount [e] = 1) : CountsAsListed j q (closingEvents p q ++ [e]) := by
  have hc := (messageCount_le_length _).trans (closingEvents_length_le p q)
  have hne : j ≠ .tuneRequest ∧ j ≠ .eox := by obtain rfl | rfl := hj <;> decide
  refine ⟨iff_of_false ?_ fun h => hne.1 h.1, ?_⟩
  · rw [messageCount_append, hmsg]
    omega
  · rw [errorCount_append, herr, ← errorCount_closingEvents p q]
    simp [hj, hne.2]

theorem countsAsListed_eox {r : Partial} (herr : errorCount [e] = 1) :
    CountsAsListed .eox (.await r) (closingEvents p (.await r) ++ [e]) := by
  have hmsg : messageCount [e] ≤ 1 := messageCount_le_length [e]
  have hcount : messageCount (closingEvents p (.await r) ++ [e]) = messageCount [e] := by
    rw [messageCount_append]
    simp [closingEvents]
  refine ⟨iff_of_false (by omega) (by simp), iff_of_true ?_ (.inr ⟨rfl, r, rfl⟩)⟩
  rw [errorCount_append, herr]
  simp [closingEvents]

end

/-- The events of a handler are counted as R103 says, in each of its cases and outside them. -/
theorem handler_countsAsListed {j : Instr} {p : Sample} {i : Instance} {w : Work}
    (h : handler j p i.work = some w) : CountsAsListed j i.ds.pending w.events := by
  by_cases hj : ClosesAndDelivers j i.ds.pending
  · obtain rfl | hj | ⟨rfl, r, hq⟩ := hj
    · rw [handler_tuneRequest_events h]
      exact countsAsListed_tuneRequest rfl rfl
    · rw [handler_undefCommon_events hj h]
      exact countsAsListed_undefCommon hj rfl rfl
    · obtain ⟨e, herr, he⟩ := handler_eox_events_of_await h hq
      rw [he, Instance.work_ds, hq]
      exact countsAsListed_eox (errorCount_singleton_of_some herr)
  · exact countsAsListed_of_length_le_one hj (by simpa using handler_events_length_le hj h)

/-- Settles O46: no more than two of either, since there are at most two events; two by the cases of R103. -/
theorem twoMessagesOrTwoErrorsOnlyWhereListed : Obligations.TwoMessagesOrTwoErrorsOnlyWhereListed := by
  intro s t x i i' j new hl h ht
  obtain ⟨w, hw, rfl⟩ := exec_next_of_live hl h
  obtain ⟨-, rfl⟩ := State.stepped_injective hl ht
  have hlen : w.events.length ≤ 2 := by simpa using handler_events_length_le_two hw
  exact ⟨(messageCount_le_length _).trans hlen, (errorCount_le_length _).trans hlen, handler_countsAsListed hw⟩

end Sys2Proof.Machine
end

section
/-! PROOFS. The statements of spec/41_channel_messages.md: the step of a channel status byte (R115). -/

namespace Sys2Proof.Machine

/-- The next state of an instruction whose handler is `ChannelStatus(b)` (R115, by `channelStatus_eq`): the
working copy starts without events, so the step's events are the closing event alone. -/
theorem exec_channelStatus {j : Instr} {b : Byte} {need : Nat} {s : State} {x : Stream} {i : Instance}
    (hl : s.Live x i) (hj : handler j s.port i.work = some (channelStatus s.port b need i.work)) :
    exec j s = .next (s.stepped x
      { i with ds := { runningStatus := some b, pending := .await (.first b need s.port.now s.port.hw) } }
      (closingEvents s.port i.ds.pending)) := by
  rw [exec_live hl hj, channelStatus_eq]
  rfl

/-- Settles O12: the handler of each of the eight rows is `ChannelStatus` with the row's status byte and its
count of data bytes. -/
theorem channelStatusClosesThenAwaits : Obligations.ChannelStatusClosesThenAwaits := by
  intro s x i c n hl
  exact ⟨exec_channelStatus hl rfl, exec_channelStatus hl rfl, exec_channelStatus hl rfl,
    exec_channelStatus hl rfl, exec_channelStatus hl rfl, exec_channelStatus hl rfl,
    exec_channelStatus hl rfl, exec_channelStatus hl rfl⟩

end Sys2Proof.Machine
end

section
/-! PROOFS. The statements of spec/42_system_common_sysex.md: a System Common status byte (R130, R138 to R144),
EOX (R133, R134), and the data bytes of a SysEx (R131, R132, R136, R137, R147). -/

namespace Sys2Proof.Machine

/-! ## A status byte of [0xF0, 0xF7] that ends no SysEx -/

section
variable {j : Instr} {s : State} {x : Stream} {i : Instance}

/-- The closing part of R144 on the working copy of a step, which starts without events. -/
theorem commonStatus_work (p : Sample) (i : Instance) :
    commonStatus p i.work =
      { ds := { runningStatus := none, pending := .idle }, cs := i.cs, events := closingEvents p i.ds.pending } :=
  commonStatus_eq p i.work

/-- The step of a byte that puts `q` in progress once the message before it is disposed of. -/
theorem exec_commonStatus_setPending {q : Pending} (hl : s.Live x i)
    (hj : handler j s.port i.work = some ((commonStatus s.port i.work).setPending q)) :
    exec j s = .next (s.stepped x { i with ds := { runningStatus := none, pending := q } }
      (closingEvents s.port i.ds.pending)) := by
  rw [exec_live hl hj, commonStatus_work]
  rfl

/-- The step of a byte that delivers the event `e` and no more once the message before it is disposed of. -/
theorem exec_commonStatus_event {e : Event} (hl : s.Live x i)
    (hj : handler j s.port i.work =
      some { commonStatus s.port i.work with events := (commonStatus s.port i.work).events ++ [e] }) :
    exec j s = .next (s.stepped x { i with ds := { runningStatus := none, pending := .idle } }
      (closingEvents s.port i.ds.pending ++ [e])) := by
  rw [exec_live hl hj, commonStatus_work]

end

/-- Settles O13: each of the three handlers enters `AwaitingDataByte` after the closing part of R144. -/
theorem systemCommonStatusClosesThenAwaits : Obligations.SystemCommonStatusClosesThenAwaits := by
  intro s x i hl
  exact ⟨exec_commonStatus_setPending hl rfl, exec_commonStatus_setPending hl rfl,
    exec_commonStatus_setPending hl rfl⟩

/-- Settles O14: `SysExStart` puts the empty accumulator in progress after the closing part of R144. -/
theorem sysExStartOpensAnEmptyAccumulator : Obligations.SysExStartOpensAnEmptyAccumulator :=
  fun _ _ _ hl => exec_commonStatus_setPending hl rfl

/-- Settles O15: the one event of both handlers after the closing part of R144 is the error. -/
theorem undefinedCommonStatusIsReported : Obligations.UndefinedCommonStatusIsReported :=
  fun _ _ _ hl => ⟨exec_commonStatus_event hl rfl, exec_commonStatus_event hl rfl⟩

/-- Settles O16: the classifier leaves a System Common message plain and keeps its state (R179), so the message
is the one event after the closing part of R144. -/
theorem tuneRequestIsEmittedAtOnce : Obligations.TuneRequestIsEmittedAtOnce :=
  fun _ _ _ hl => exec_commonStatus_event hl rfl

/-! ## EOX -/

section
variable {p : Sample} {w : Work}

theorem handler_eox_inSysEx {a : SysExAcc} (hq : w.ds.pending = .inSysEx a) :
    handler .eox p w = some (eoxInSysEx p a w) := by
  rw [handler, hq]

theorem handler_eox_unmatched (hq : ∀ a, w.ds.pending ≠ .inSysEx a) :
    handler .eox p w = some (unmatchedEox p (commonStatus p w)) := by
  cases hp : w.ds.pending with
  | inSysEx a => exact absurd hp (hq a)
  | idle | await _ => rw [handler, hp]

/-- The end of a SysEx delivers its message, which the classifier state ignores (R133, R178), or nothing after
an overflow (R137). -/
theorem eoxInSysEx_eq (p : Sample) (a : SysExAcc) (w : Work) :
    eoxInSysEx p a w =
      { ds := { w.ds with pending := .idle }
        cs := w.cs
        events := w.events ++
          if a.ovf then []
          else [messageEvent p (.systemExclusive a.id a.payload true)
            { Ann.plain with universal := universalOf a.id a.payload } a.t0 a.h0 none] } := by
  rw [eoxInSysEx]
  split
  · simp [Work.setPending]
  · rfl

/-- An unmatched EOX is one event, with the zero-length SysEx in it by the host's policy (R134). -/
theorem unmatchedEox_eq (p : Sample) (w : Work) :
    unmatchedEox p w = { w with events := w.events ++
      [if p.cfg.unmatchedEoxAsEmptySysex then
        messageEvent p (.systemExclusive [] [] true) .plain p.now p.hw (some .unmatchedEox)
      else errorEvent p .unmatchedEox] } := by
  rw [unmatchedEox]
  split <;> rfl

end

/-- Settles O17: the handler is `EoxInSysEx` on a working copy without events. -/
theorem eoxEndsASysEx : Obligations.EoxEndsASysEx := by
  intro s x i a hl hq
  rw [exec_live hl (handler_eox_inSysEx hq), eoxInSysEx_eq]
  rfl

/-- Settles O18: the handler is `UnmatchedEox` after the closing part of R144. -/
theorem unmatchedEoxIsReported : Obligations.UnmatchedEoxIsReported := by
  intro s x i hl hq
  exact exec_commonStatus_event hl ((handler_eox_unmatched hq).trans (congrArg some (unmatchedEox_eq ..)))

/-! ## The branches of `SysExData(b)` -/

section
variable {a : SysExAcc} {b : Data7} {p : Sample} {w : Work}

theorem dataStep_inSysEx (hq : w.ds.pending = .inSysEx a) : dataStep b p w = some (sysExData a b p w) := by
  rw [dataStep, hq]

/-- After an overflow the byte is dropped (R137). -/
theorem sysExData_overflowed (ha : a.ovf = true) : sysExData a b p w = w := if_pos ha

/-- An id byte (R131, R132). -/
theorem sysExData_id (ha : a.ovf = false) (hid : a.id.length < idNeed a.id) :
    sysExData a b p w = w.setPending (.inSysEx { a with id := a.id ++ [b] }) := by
  simp [sysExData, ha, hid, SysExAcc.appendId_eq]

/-- A payload byte without room (R136). -/
theorem sysExData_overflow (ha : a.ovf = false) (hid : ¬ a.id.length < idNeed a.id)
    (hfull : p.cfg.sysexMaxPayloadBytes ≤ a.payload.length) : sysExData a b p w = sysExOverflow a p w := by
  simp [sysExData, ha, hid, hfull]

/-- A payload byte with room (R131). -/
theorem sysExData_payload (ha : a.ovf = false) (hid : ¬ a.id.length < idNeed a.id)
    (hroom : a.payload.length < p.cfg.sysexMaxPayloadBytes) :
    sysExData a b p w = w.setPending (.inSysEx { a with payload := a.payload ++ [b] }) := by
  simp [sysExData, ha, hid, Nat.not_le.mpr hroom, SysExAcc.appendPayload]

/-- A data byte inside a SysEx runs `SysExData(b)` (R95, R131). -/
theorem exec_data_inSysEx {s : State} {x : Stream} {i : Instance} (hl : s.Live x i) (hq : i.ds.pending = .inSysEx a)
    (hw : sysExData a b s.port i.work = w) :
    exec (.data b) s = .next (s.stepped x { ds := w.ds, cs := w.cs } w.events) :=
  exec_live (j := .data b) hl ((dataStep_inSysEx hq).trans (congrArg some hw))

end

/-- Settles O24: the id and payload branches of `SysExData`, with `IdNeed` written out by `idIncomplete_iff`. -/
theorem sysExDataByteIsStored : Obligations.SysExDataByteIsStored := by
  intro s x i a b hl hq ha incomplete
  have hid : a.id.length < idNeed a.id ↔ incomplete := idIncomplete_iff a.id
  exact ⟨fun h => exec_data_inSysEx hl hq (sysExData_id ha (hid.mpr h)),
    fun h hroom => exec_data_inSysEx hl hq (sysExData_payload ha (mt hid.mp h) hroom)⟩

/-- Settles O25: the overflow branch of `SysExData`, which a complete id and a full payload reach. -/
theorem sysExOverflowDiscardsTheMessage : Obligations.SysExOverflowDiscardsTheMessage :=
  fun _ _ _ _ _ hl hq ha hid hfull => exec_data_inSysEx hl hq (sysExData_overflow ha hid.not_lt hfull)

/-- Settles O26: the first branch of `SysExData` returns the working copy as it was. -/
theorem overflowedSysExDropsDataBytes : Obligations.OverflowedSysExDropsDataBytes :=
  fun _ _ _ _ _ hl hq ha => exec_data_inSysEx hl hq (sysExData_overflowed ha)

/-! ## The growth of the payload -/

/-- What R147 and R48 say of the message in progress before and after a step with the cap `cap` in force. -/
def Pending.GrowsBelow (cap : Nat) (q q' : Pending) : Prop :=
  q'.payloadLength ≤ q.payloadLength ∨
    (q'.payloadLength = q.payloadLength + 1 ∧ q'.payloadLength ≤ cap)

section
variable {cap : Nat} {q q' : Pending}

theorem Pending.growsBelow_refl : q.GrowsBelow cap q := .inl (Nat.le_refl _)

/-- Where no payload byte is held after the step, none was added. -/
theorem Pending.growsBelow_of_empty (h : q'.payloadLength = 0) : q.GrowsBelow cap q' :=
  .inl (h ▸ Nat.zero_le _)

end

/-- A byte of [0xF0, 0xF6] leaves no payload byte (R144, R130). -/
theorem Pending.AfterCommon.payloadLength {p : Sample} {q : Pending} (h : q.AfterCommon p) :
    q.payloadLength = 0 := by
  obtain rfl | rfl | ⟨_, _, -, -, -, rfl⟩ := h <;> rfl

section
variable {b : Data7} {p : Sample} {w w' : Work}

/-- Inside a SysEx only the payload branch adds a payload byte, and it is taken where there is room. -/
theorem sysExData_growsBelow {a : SysExAcc} (hq : w.ds.pending = .inSysEx a) :
    w.ds.pending.GrowsBelow p.cfg.sysexMaxPayloadBytes (sysExData a b p w).ds.pending := by
  cases ha : a.ovf with
  | true =>
    rw [sysExData_overflowed ha]
    exact Pending.growsBelow_refl
  | false =>
    rw [hq]
    by_cases hid : a.id.length < idNeed a.id
    · rw [sysExData_id ha hid]
      exact .inl (Nat.le_refl _)
    · obtain hroom | hfull := Nat.lt_or_ge a.payload.length p.cfg.sysexMaxPayloadBytes
      · rw [sysExData_payload ha hid hroom]
        have hlen : (a.payload ++ [b]).length = a.payload.length + 1 := List.length_append
        exact .inr ⟨hlen, hlen.trans_le hroom⟩
      · rw [sysExData_overflow ha hid hfull]
        exact Pending.growsBelow_of_empty rfl

/-- In `AwaitingDataByte` a data byte leaves `Idle` or another message to wait (R96). -/
theorem awaitData_payloadLength {q : Partial} (h : awaitData q b p w = some w') :
    w'.ds.pending.payloadLength = 0 := by
  rw [awaitData] at h
  split at h
  · obtain ⟨m, -, rfl⟩ := Option.map_eq_some_iff.mp h
    rfl
  · cases h
    rfl

/-- Under running status a data byte leaves what was in progress, or a message to wait (R97). -/
theorem runningData_growsBelow {s : Byte} (cap : Nat) (h : runningData s b p w = some w') :
    w.ds.pending.GrowsBelow cap w'.ds.pending := by
  rw [runningData] at h
  split at h
  · obtain ⟨m, -, rfl⟩ := Option.map_eq_some_iff.mp h
    exact Pending.growsBelow_refl
  · cases h
    exact Pending.growsBelow_of_empty rfl
  · cases h

theorem dataStep_growsBelow (h : dataStep b p w = some w') :
    w.ds.pending.GrowsBelow p.cfg.sysexMaxPayloadBytes w'.ds.pending := by
  cases hq : w.ds.pending with
  | inSysEx a =>
    cases (dataStep_inSysEx hq).symm.trans h
    exact hq ▸ sysExData_growsBelow hq
  | await q => exact Pending.growsBelow_of_empty (awaitData_payloadLength ((dataStep_await hq).symm.trans h))
  | idle =>
    cases hr : w.ds.runningStatus with
    | none =>
      cases (dataStep_orphan hq hr).symm.trans h
      exact hq ▸ Pending.growsBelow_refl
    | some s => exact hq ▸ runningData_growsBelow _ ((dataStep_running hq hr).symm.trans h)

/-- After EOX nothing is in progress (R133, R134). -/
theorem handler_eox_pending (h : handler .eox p w = some w') : w'.ds.pending = .idle := by
  cases h
  split <;> simp

/-- Of all bytes only a data byte adds to the payload: a status byte of [0x80, 0xF7] leaves none, and a realtime
byte leaves `DS` alone. -/
theorem handler_growsBelow {j : Instr} (h : handler j p w = some w') :
    w.ds.pending.GrowsBelow p.cfg.sysexMaxPayloadBytes w'.ds.pending := by
  rcases instr_class_cases j with hj | hj | rfl | hj | ⟨v, rfl⟩
  · obtain ⟨b, need, -, -, -, -, hrun⟩ := handler_channelStatus hj
    cases (hrun p w).symm.trans h
    rw [channelStatus_ds]
    exact Pending.growsBelow_of_empty rfl
  · obtain ⟨q, hq, hds⟩ := handler_commonStatus_ds hj h
    rw [hds]
    exact Pending.growsBelow_of_empty hq.payloadLength
  · rw [handler_eox_pending h]
    exact Pending.growsBelow_of_empty rfl
  · rw [handler_realtime_ds hj h]
    exact Pending.growsBelow_refl
  · exact dataStep_growsBelow h

end

/-- Settles O27: the instance of the end state holds the `DS` that the handler left. -/
theorem payloadGrowsOnlyBelowTheCap : Obligations.PayloadGrowsOnlyBelowTheCap := by
  intro s t x y i i' j hl h hy
  obtain ⟨w, hw, rfl⟩ := exec_next_of_live hl h
  obtain ⟨-, rfl⟩ := hy.unique (State.stepped_live hl _ _)
  exact handler_growsBelow hw

end Sys2Proof.Machine
end

section
/-! PROOFS. The statements of spec/43_system_realtime.md: the step of a realtime byte (R155 to R164). -/

namespace Sys2Proof.Machine

section
variable {j : Instr} {s : State} {x : Stream} {i : Instance}

/-- The classifier leaves a realtime message plain and keeps its state (R179), and `DS` is not touched (R155). -/
theorem emitRealtime_eq (k : Realtime) (p : Sample) (w : Work) :
    emitRealtime k p w =
      { w with events := w.events ++ [messageEvent p (.systemRealtime k) .plain p.now p.hw none] } := by
  rw [emitRealtime, emit_eq]
  rfl

/-- The step of an instruction whose handler adds the event `e` to the working copy and does nothing else. -/
theorem exec_event {e : Event} (hl : s.Live x i)
    (hj : handler j s.port i.work = some { i.work with events := i.work.events ++ [e] }) :
    exec j s = .next (s.stepped x i [e]) :=
  exec_live hl hj

/-- The step of a byte that delivers the realtime message `k`. -/
theorem exec_emitRealtime {k : Realtime} (hl : s.Live x i)
    (hj : handler j s.port i.work = some (emitRealtime k s.port i.work)) :
    exec j s = .next
      (s.stepped x i [messageEvent s.port (.systemRealtime k) .plain s.port.now s.port.hw none]) :=
  exec_event hl (hj.trans (congrArg some (emitRealtime_eq ..)))

/-- The step of a byte that reports the error `k`. -/
theorem exec_report {k : ErrorKind} (hl : s.Live x i)
    (hj : handler j s.port i.work = some (report s.port k i.work)) :
    exec j s = .next (s.stepped x i [errorEvent s.port k]) :=
  exec_event hl (hj.trans (congrArg some (report_eq ..)))

end

/-- Settles O28: the handler of each of the six rows emits the row's message, whatever is in progress. -/
theorem realtimeMessagesAreEmittedAtOnce : Obligations.RealtimeMessagesAreEmittedAtOnce := by
  intro s x i hl after
  exact ⟨exec_emitRealtime hl rfl, exec_emitRealtime hl rfl, exec_emitRealtime hl rfl,
    exec_emitRealtime hl rfl, exec_emitRealtime hl rfl, exec_emitRealtime hl rfl⟩

/-- Settles O29: the handlers of both rows only report, with no `ClosePending()` and no write of running status. -/
theorem undefinedRealtimeIsReported : Obligations.UndefinedRealtimeIsReported :=
  fun _ _ _ hl => ⟨exec_report hl rfl, exec_report hl rfl⟩

end Sys2Proof.Machine
end

section
/-! PROOFS. The statements of spec/44_classifier.md: what each message does to the annotation and to the
selectors (R168 to R179). -/

namespace Sys2Proof.Machine

/-! The selector controllers and the two halves of a pair (R172, R173). -/

/-- The controller that writes one half of one pair (R172). -/
def selectorController : Space → Half → Data7
  | .rpn, .msb => 101#7
  | .rpn, .lsb => 100#7
  | .nrpn, .msb => 99#7
  | .nrpn, .lsb => 98#7

/-- The other half of a pair. -/
def Half.other : Half → Half
  | .msb => .lsb
  | .lsb => .msb

/-- One half of one pair, as the selectors hold it (R25). -/
def ChanSel.half (x : ChanSel) : Space → Half → Option Data7
  | .rpn, .msb => x.rpnMsb
  | .rpn, .lsb => x.rpnLsb
  | .nrpn, .msb => x.nrpnMsb
  | .nrpn, .lsb => x.nrpnLsb

/-- The selectors with one pair cleared, that pair named as the last written (R174). -/
def ChanSel.clearPair (x : ChanSel) : Space → ChanSel
  | .rpn => { x with rpnMsb := none, rpnLsb := none, lastSel := some .rpn }
  | .nrpn => { x with nrpnMsb := none, nrpnLsb := none, lastSel := some .nrpn }

theorem ChanSel.half_write_self (x : ChanSel) (space : Space) (half : Half) (v : Data7) :
    (x.write space half v).half space half = some v := by
  cases space <;> cases half <;> rfl

/-- A selector write stores its half, or clears the pair when it completes (127, 127) (R173, R174). -/
theorem ChanSel.nullCheck_write (x : ChanSel) (space : Space) (half : Half) (v : Data7) :
    (x.write space half v).nullCheck space =
      if v = 127#7 ∧ x.half space half.other = some 127#7 then x.clearPair space
      else x.write space half v := by
  by_cases hv : v = 127#7 <;> cases space <;> cases half <;>
    simp [ChanSel.write, ChanSel.nullCheck, ChanSel.half, Half.other, ChanSel.clearPair, hv]

theorem ChanSel.nullCheck_write_of_not_null {x : ChanSel} {space : Space} {half : Half} {v : Data7}
    (h : ¬ (v = 127#7 ∧ x.half space half.other = some 127#7)) :
    (x.write space half v).nullCheck space = x.write space half v := by
  rw [ChanSel.nullCheck_write, if_neg h]

/-- With both halves of a pair written, in either order, that pair is the active parameter (R26, R175). -/
theorem ChanSel.active_write_msb_lsb (x : ChanSel) (space : Space) (m l : Data7) :
    ((x.write space .msb m).write space .lsb l).active = some { space := space, msb := m, lsb := l } := by
  cases space <;> rfl

theorem ChanSel.active_write_lsb_msb (x : ChanSel) (space : Space) (m l : Data7) :
    ((x.write space .lsb l).write space .msb m).active = some { space := space, msb := m, lsb := l } := by
  cases space <;> rfl

@[simp] theorem selectorWrite_sel_self (cs : ClassifierState) (c : Channel) (space : Space) (half : Half)
    (v : Data7) :
    (selectorWrite cs c space half v).sel c = ((cs.sel c).write space half v).nullCheck space :=
  ClassifierState.sel_setSel_self ..

theorem selectorWrite_sel_of_ne (cs : ClassifierState) {c c' : Channel} (space : Space) (half : Half)
    (v : Data7) (h : c' ≠ c) : (selectorWrite cs c space half v).sel c' = cs.sel c' :=
  ClassifierState.sel_setSel_of_ne cs _ h

/-- Two writes that fill both halves of a pair, neither of which completes (127, 127), leave both halves. -/
theorem selectorWrite_both_halves_sel {cs : ClassifierState} {c : Channel} {space : Space} {half : Half}
    {a b : Data7} (hfirst : ¬ (a = 127#7 ∧ (cs.sel c).half space half.other = some 127#7))
    (hboth : ¬ (a = 127#7 ∧ b = 127#7)) :
    (selectorWrite (selectorWrite cs c space half a) c space half.other b).sel c =
      ((cs.sel c).write space half a).write space half.other b := by
  have hother : half.other.other = half := by cases half <;> rfl
  have hsecond : ¬ (b = 127#7 ∧
      ((cs.sel c).write space half a).half space half.other.other = some 127#7) := by
    rw [hother, ChanSel.half_write_self, Option.some.injEq]
    exact fun ⟨hb, ha⟩ => hboth ⟨ha, hb⟩
  rw [selectorWrite_sel_self, selectorWrite_sel_self, ChanSel.nullCheck_write_of_not_null hfirst,
    ChanSel.nullCheck_write_of_not_null hsecond]

/-! `Classify(m)`, one equation for each arm (R168). -/

section
variable (cfg : Cfg) (cs : ClassifierState) (c : Channel)

theorem classify_noteOn (d1 d2 : Data7) :
    classify cfg (.channelVoice c (.noteOn d1 d2)) cs =
      ({ Ann.plain with aliasNoteOff := cfg.velocityZeroIsNoteOff && d2 == 0#7 }, cs) := rfl

/-- Controllers 91 and 93 carry the naming flag (R171). -/
theorem classify_renamed {n : Data7} (v : Data7) (h : n ∈ [91#7, 93#7]) :
    classify cfg (.channelVoice c (.controlChange n v)) cs =
      ({ Ann.plain with ccRenamed := cfg.cc9193Renamed }, cs) := by
  simp only [List.mem_cons, List.not_mem_nil, or_false] at h
  rcases h with rfl | rfl <;> rfl

/-- A selector controller runs `SelectorWrite` and leaves the annotation plain (R172). -/
theorem classify_selector (space : Space) (half : Half) (v : Data7) :
    classify cfg (.channelVoice c (.controlChange (selectorController space half) v)) cs =
      (.plain, selectorWrite cs c space half v) := by
  cases space <;> cases half <;> rfl

/-- A controller outside R171, R172 and R176 is plain (R179). -/
theorem classify_otherController {n : Data7} (v : Data7)
    (h : n ∉ [91#7, 93#7, 98#7, 99#7, 100#7, 101#7, 6#7, 38#7, 96#7, 97#7]) :
    classify cfg (.channelVoice c (.controlChange n v)) cs = (.plain, cs) := by
  simp only [List.mem_cons, List.not_mem_nil, or_false, not_or] at h
  simp [classify, classifyControl, h]

/-- Controller 121 runs `ChannelReset` (R177). -/
theorem classify_channelReset (v : Data7) :
    classify cfg (.channelMode c 121#7 v) cs = (.plain, channelReset cs c) := rfl

theorem classify_channelMode_of_ne {n : Data7} (v : Data7) (h : n ≠ 121#7) :
    classify cfg (.channelMode c n v) cs = (.plain, cs) := by
  simp [classify, h]

theorem classify_systemExclusive (id payload : List Data7) (terminated : Bool) :
    classify cfg (.systemExclusive id payload terminated) cs =
      ({ Ann.plain with universal := universalOf id payload }, cs) := rfl

/-- The ids `[0x7E]` and `[0x7F]` are universal, whatever the payload holds (R178). -/
theorem universalOf_singleton {u : Data7} (payload : List Data7) (h : u ∈ [0x7E#7, 0x7F#7]) :
    universalOf [u] payload = some { univId := u, subId1 := payload[0]?, subId2 := payload[1]? } := by
  simp only [List.mem_cons, List.not_mem_nil, or_false] at h
  rcases h with rfl | rfl <;> rfl

/-- A SysEx with any other id is plain (R179). -/
theorem classify_systemExclusive_of_not_mem {id : List Data7} (payload : List Data7) (terminated : Bool)
    (h : id ∉ [[0x7E#7], [0x7F#7]]) :
    classify cfg (.systemExclusive id payload terminated) cs = (.plain, cs) := by
  have hnone : universalOf id payload = none := if_neg (by simpa using h)
  rw [classify_systemExclusive, hnone]
  rfl

end

/-- The selector controllers, by the half they write (R172). -/
theorem mem_selectorControllers_iff (n : Data7) :
    n ∈ [98#7, 99#7, 100#7, 101#7] ↔ ∃ space half, n = selectorController space half := by
  constructor
  · intro h
    simp only [List.mem_cons, List.not_mem_nil, or_false] at h
    obtain rfl | rfl | rfl | rfl := h
    · exact ⟨.nrpn, .lsb, rfl⟩
    · exact ⟨.nrpn, .msb, rfl⟩
    · exact ⟨.rpn, .lsb, rfl⟩
    · exact ⟨.rpn, .msb, rfl⟩
  · rintro ⟨space, half, rfl⟩
    cases space <;> cases half <;> simp [selectorController]

/-- Every controller is in one arm of R171, R172, R176 or in none (R179). -/
theorem controller_cases (n : Data7) :
    n ∈ [91#7, 93#7] ∨ (∃ space half, n = selectorController space half) ∨ n ∈ [6#7, 38#7, 96#7, 97#7] ∨
      n ∉ [91#7, 93#7, 98#7, 99#7, 100#7, 101#7, 6#7, 38#7, 96#7, 97#7] := by
  rw [← mem_selectorControllers_iff]
  simp only [List.mem_cons, List.not_mem_nil, or_false]
  tauto

/-- A message other than controllers 91 and 93 does not carry the naming flag (R171). -/
theorem classify_ccRenamed_eq_false (cfg : Cfg) (cs : ClassifierState) {m : Msg}
    (h : ∀ c n v, m = .channelVoice c (.controlChange n v) → n ∉ [91#7, 93#7]) :
    (classify cfg m cs).1.ccRenamed = false := by
  cases m with
  | channelVoice c voice =>
    cases voice with
    | controlChange n v =>
      rcases controller_cases n with hn | ⟨space, half, rfl⟩ | hn | hn
      · exact absurd hn (h c n v rfl)
      · rw [classify_selector]
        rfl
      · rw [classify_dataEntry cfg cs c n v hn]
        rfl
      · rw [classify_otherController cfg cs c v hn]
        rfl
    | noteOff | noteOn | polyPressure | programChange | channelPressure | pitchBend => rfl
  | channelMode | systemCommon | systemRealtime | systemExclusive => rfl

/-- Settles O30: each of the four controllers runs `SelectorWrite` on its half (`classify_selector`), which
stores the half or clears the pair (`ChanSel.nullCheck_write`). -/
theorem selectorWriteSetsOneHalfOrClearsThePair :
    Obligations.SelectorWriteSetsOneHalfOrClearsThePair := by
  intro cfg cs c c' v old msg
  have hown (space : Space) (half : Half) :
      (classify cfg (msg (selectorController space half)) cs).2.sel c =
        if v = 127#7 ∧ old.half space half.other = some 127#7 then old.clearPair space
        else old.write space half v := by
    rw [classify_selector, selectorWrite_sel_self, ChanSel.nullCheck_write]
  refine ⟨hown .rpn .msb, hown .rpn .lsb, hown .nrpn .msb, hown .nrpn .lsb, fun n hn => ?_⟩
  obtain ⟨space, half, rfl⟩ := (mem_selectorControllers_iff n).mp hn
  rw [classify_selector]
  exact ⟨rfl, selectorWrite_sel_of_ne cs space half v⟩

/-- Settles O31: neither write completes (127, 127), so both halves stand after them
(`selectorWrite_both_halves_sel`) and the pair they make is the active one. -/
theorem lastWrittenPairIsActive : Obligations.LastWrittenPairIsActive := by
  intro cfg cs c m l v n hml hn write entry old
  have hlm : ¬ (l = 127#7 ∧ m = 127#7) := fun ⟨hl, hm⟩ => hml ⟨hm, hl⟩
  have hentry (cs' : ClassifierState) : entry cs' = (cs'.sel c).active :=
    congrArg (fun r => r.1.param) (classify_dataEntry cfg cs' c n v hn)
  have hwrite (space : Space) (half : Half) (d : Data7) (cs' : ClassifierState) :
      write (selectorController space half) d cs' = selectorWrite cs' c space half d :=
    congrArg Prod.snd (classify_selector cfg cs' c space half d)
  have msbFirst (space : Space) (h : ¬ (m = 127#7 ∧ old.half space .lsb = some 127#7)) :
      entry (write (selectorController space .lsb) l (write (selectorController space .msb) m cs)) =
        some { space := space, msb := m, lsb := l } := by
    rw [hentry, hwrite, hwrite]
    exact (congrArg _ (selectorWrite_both_halves_sel h hml)).trans (ChanSel.active_write_msb_lsb ..)
  have lsbFirst (space : Space) (h : ¬ (l = 127#7 ∧ old.half space .msb = some 127#7)) :
      entry (write (selectorController space .msb) m (write (selectorController space .lsb) l cs)) =
        some { space := space, msb := m, lsb := l } := by
    rw [hentry, hwrite, hwrite]
    exact (congrArg _ (selectorWrite_both_halves_sel h hlm)).trans (ChanSel.active_write_lsb_msb ..)
  exact ⟨msbFirst .rpn, lsbFirst .rpn, msbFirst .nrpn, lsbFirst .nrpn⟩

/-- Settles O32: data entry carries the active parameter, which R26 gives in each of the five cases. -/
theorem dataEntryCarriesTheActiveParameter : Obligations.DataEntryCarriesTheActiveParameter := by
  intro cfg cs c n v m l hn sel annotated
  have hannotated {p : Option Param} (hp : sel.active = p) : annotated p :=
    hp ▸ classify_dataEntry cfg cs c n v hn
  exact ⟨fun h hm hl => hannotated (ChanSel.active_rpn h hm hl),
    fun h hm hl => hannotated (ChanSel.active_nrpn h hm hl),
    fun h => hannotated (ChanSel.active_unselected h),
    fun h hx => hannotated (ChanSel.active_rpn_incomplete h hx),
    fun h hx => hannotated (ChanSel.active_nrpn_incomplete h hx)⟩

/-- Settles O33: controller 121 writes the empty record to its own channel, the others write nothing. -/
theorem channelResetClearsOneChannel : Obligations.ChannelResetClearsOneChannel := by
  intro cfg cs c c' n v
  rw [classify_channelReset]
  exact ⟨rfl, ClassifierState.sel_setSel_self .., ClassifierState.sel_setSel_of_ne cs _,
    classify_channelMode_of_ne cfg cs c v⟩

/-- Settles O34: the model compares the velocity as a word, the statement as a number. -/
theorem noteOnVelocityZeroIsAnAlias : Obligations.NoteOnVelocityZeroIsAnAlias := by
  intro cfg cs c d1 d2
  have hzero : (d2 == 0#7) = decide (d2.toNat = 0) := by
    rw [beq_eq_decide, decide_eq_decide]
    exact BitVec.toNat_inj.symm
  exact ⟨by rw [classify_noteOn, hzero], rfl⟩

/-- Settles O35: controllers 91 and 93 have an arm of their own, and no other arm writes the flag. -/
theorem controllers91And93AreRenamed : Obligations.Controllers91And93AreRenamed := by
  intro cfg cs c n v
  exact ⟨classify_renamed cfg cs c v, fun m => classify_ccRenamed_eq_false cfg cs, rfl, rfl⟩

/-- Settles O36: the annotation reads payload bytes 0 and 1, each of which may be missing. -/
theorem universalSysExIsAnnotated : Obligations.UniversalSysExIsAnnotated := by
  intro cfg cs u a b id rest terminated annotated
  refine ⟨fun hu => ?_, fun h7E h7F => ?_⟩
  · have hannotated (payload : List Data7) :
        annotated payload { univId := u, subId1 := payload[0]?, subId2 := payload[1]? } := by
      simp only [annotated, classify_systemExclusive, universalOf_singleton payload hu]
    exact ⟨hannotated [], hannotated [a], hannotated (a :: b :: rest)⟩
  · exact classify_systemExclusive_of_not_mem cfg cs rest terminated (by simp [h7E, h7F])

/-- Settles O37: one equation of `Classify` for each kind of message that R179 lists. -/
theorem otherMessagesArePlain : Obligations.OtherMessagesArePlain := by
  intro cfg cs c a b k r id payload terminated
  refine ⟨fun v hv => ?_, classify_otherController cfg cs c b, classify_channelMode_of_ne cfg cs c b, rfl, rfl,
    classify_systemExclusive_of_not_mem cfg cs payload terminated⟩
  simp only [List.mem_cons, List.not_mem_nil, or_false] at hv
  obtain rfl | rfl | rfl | rfl | rfl := hv <;> rfl

/-! A status byte and the classifier state: the messages it can emit are System Common, System Realtime and
SysEx, and the classifier keeps its state on each of them (R178, R179). -/

section
variable (p : Sample) (w : Work)

@[simp] theorem report_cs (e : ErrorKind) : (report p e w).cs = w.cs := rfl
@[simp] theorem enterAwait_cs (b : Byte) (need : Nat) : (enterAwait p b need w).cs = w.cs := rfl
@[simp] theorem channelStatus_cs (b : Byte) (need : Nat) : (channelStatus p b need w).cs = w.cs := by
  rw [channelStatus_eq]
@[simp] theorem commonStatus_cs : (commonStatus p w).cs = w.cs := by
  rw [commonStatus_eq]
@[simp] theorem emit_systemCommon_cs (k : Common Data7) (t : Time) (h : Option HwTime) :
    (emit p (.systemCommon k) t h w).cs = w.cs := rfl
@[simp] theorem emitRealtime_cs (k : Realtime) : (emitRealtime k p w).cs = w.cs := rfl
@[simp] theorem unmatchedEox_cs : (unmatchedEox p w).cs = w.cs := by
  rw [unmatchedEox]; split <;> rfl
@[simp] theorem eoxInSysEx_cs (a : SysExAcc) : (eoxInSysEx p a w).cs = w.cs := by
  rw [eoxInSysEx]; split <;> rfl

end

/-- The handler of a status byte closes what is in progress, reports, and emits messages that leave `CS`
alone; only a data byte completes a message that writes it (R155, R179). -/
theorem handler_cs_of_ne_data {j : Instr} {p : Sample} {w w' : Work} (hj : ∀ v, j ≠ .data v)
    (h : handler j p w = some w') : w'.cs = w.cs := by
  rcases instr_class_cases j with hc | hc | rfl | hc | ⟨v, rfl⟩
  · obtain ⟨b, need, -, -, -, -, hrun⟩ := handler_channelStatus hc
    cases (hrun p w).symm.trans h
    exact channelStatus_cs p w b need
  · cases j <;> cases hc <;> cases h <;> simp [sysExStart]
  · cases h
    split <;> simp
  · cases j <;> cases hc <;> cases h <;> simp
  · exact absurd rfl (hj v)

/-- Settles O51: the instance of the end state holds the `CS` that the handler left. -/
theorem statusBytesLeaveTheClassifierAlone : Obligations.StatusBytesLeaveTheClassifierAlone := by
  intro s t x y i i' j hl h hy hj
  obtain ⟨w, hw, rfl⟩ := exec_next_of_live hl h
  obtain ⟨-, rfl⟩ := hy.unique (State.stepped_live hl _ _)
  exact handler_cs_of_ne_data hj hw

end Sys2Proof.Machine
end

section
/-! PROOFS. The statements of spec/45_encoder.md: what is rejected and what is encoded (R190 to R209), that the
decoder's messages can be encoded (R211), and that feeding the encoded bytes gives the message back (R210). -/

namespace Sys2Proof.Machine

/-! ## The transmit call and the rejected messages -/

/-- Settles O56: the step is `transmit`, on the state whose call is taken. -/
theorem encodeCallTransmitsItsResult : Obligations.EncodeCallTransmitsItsResult := by
  intro s m rest hcalls
  rw [step, fetch, hcalls]
  rfl

theorem dataInRange_eq_false_iff (b : Byte) : dataInRange b = false ↔ 127 < b.toNat := by
  rw [dataInRange_eq, decide_eq_false_iff_not, Nat.not_le]

theorem channelInRange_eq_false_iff (b : Byte) : channelInRange b = false ↔ 15 < b.toNat := by
  rw [channelInRange_eq, decide_eq_false_iff_not, Nat.not_le]

/-- The shapes of id and payload that the decoder can tell apart again (R71, R192). -/
theorem idShapeOk_iff (id payload : List Byte) :
    idShapeOk id payload = true ↔
      (id = [] ∧ payload = []) ∨ (∃ d, id = [d] ∧ (d ≠ 0x00#8 ∨ payload = [])) ∨
        (∃ d, id = [0x00#8, d] ∧ payload = []) ∨ (∃ d e, id = [0x00#8, d, e]) := by
  match id with
  | [] | [_] | [_, _] | [_, _, _] | _ :: _ :: _ :: _ :: _ => simp [idShapeOk]

/-- A SysEx is invalid by a byte out of range or by its shape (R192). -/
theorem valid_systemExclusive_eq_false_iff (id payload : List Byte) (terminated : Bool) :
    Message.valid (.systemExclusive id payload terminated) = false ↔
      (∃ d ∈ id ++ payload, 127 < d.toNat) ∨ ¬ idShapeOk id payload = true := by
  simp only [Message.valid, ← List.all_append, Bool.and_eq_false_iff, Bool.not_eq_true, List.all_eq_false,
    dataInRange_eq_false_iff]

/-- Settles O41: a message is rejected exactly when it is not valid (`encodeMessage_err_iff`), and each check
of `Valid` fails outside its range. -/
theorem outOfRangeMessagesAreRejected : Obligations.OutOfRangeMessagesAreRejected := by
  intro c a b id payload terminated r m rejects
  have hrejects (m : PortMsg) : rejects m ↔ m.valid = false := encodeMessage_err_iff m
  have hcontrol : ¬ a ≤ 119#8 ↔ 119 < a.toNat := Nat.not_le
  have hmode : ¬ 120#8 ≤ a ↔ a.toNat < 120 := Nat.not_le
  simp only [hrejects]
  refine ⟨?_, ?_, ?_, ?_, ?_, ?_, ?_, ?_, ?_, ?_⟩
  · cases h : m.valid with
    | false => exact .inl rfl
    | true => exact .inr ⟨_, if_pos h⟩
  case refine_10 => rw [valid_systemExclusive_eq_false_iff, idShapeOk_iff]
  all_goals
    simp only [List.forall_mem_cons, List.not_mem_nil, IsEmpty.forall_iff, implies_true, and_self, Message.valid,
      Voice.valid, Common.valid, Bool.and_eq_false_iff, decide_eq_false_iff_not, channelInRange_eq_false_iff,
      dataInRange_eq_false_iff, hcontrol, hmode, or_assoc, Bool.true_eq_false, not_false_eq_true]

/-! ## The bytes of a message as the decoder builds it -/

/-- The kind nibble of a Channel Voice message (R66). -/
def Voice.kind : Voice Data7 → BitVec 4
  | .noteOff _ _ => 0x8#4
  | .noteOn _ _ => 0x9#4
  | .polyPressure _ _ => 0xA#4
  | .controlChange _ _ => 0xB#4
  | .programChange _ => 0xC#4
  | .channelPressure _ => 0xD#4
  | .pitchBend _ _ => 0xE#4

/-- The status byte of a System Common message (R68). -/
def Common.status : Common Data7 → Byte
  | .mtcQuarterFrame _ => 0xF1#8
  | .songPositionPointer _ _ => 0xF2#8
  | .songSelect _ => 0xF3#8
  | .tuneRequest => 0xF6#8

/-- The status byte of a message. -/
def Message.status : Msg → Byte
  | .channelVoice c v => statusByte v.kind c
  | .channelMode c _ _ => statusByte 0xB#4 c
  | .systemCommon k => k.status
  | .systemRealtime k => k.byte
  | .systemExclusive _ _ _ => 0xF0#8

/-- The data bytes of a message, in the order of the wire. -/
def Message.data : Msg → List Data7
  | .channelVoice _ (.noteOff a b) | .channelVoice _ (.noteOn a b) | .channelVoice _ (.polyPressure a b)
  | .channelVoice _ (.controlChange a b) | .channelVoice _ (.pitchBend a b) | .channelMode _ a b
  | .systemCommon (.songPositionPointer a b) => [a, b]
  | .channelVoice _ (.programChange a) | .channelVoice _ (.channelPressure a)
  | .systemCommon (.mtcQuarterFrame a) | .systemCommon (.songSelect a) => [a]
  | .systemCommon .tuneRequest | .systemRealtime _ => []
  | .systemExclusive id payload _ => id ++ payload

/-- The EOX that ends a SysEx; nothing after any other message (R207). -/
def Message.closing : Msg → List Byte
  | .systemExclusive _ _ _ => [0xF7#8]
  | .channelVoice _ _ | .channelMode _ _ _ | .systemCommon _ | .systemRealtime _ => []

/-- The canonical bytes of a decoded message (R193). -/
def Message.wire (m : Msg) : List Byte := m.status :: (m.data.map dataByte ++ m.closing)

/-- The status bytes of the channel kinds, as the encoder puts them together (R194 to R201). -/
theorem kind_or_channel (c : Channel) :
    0x80#8 ||| statusByte 0#4 c = statusByte 0x8#4 c ∧ 0x90#8 ||| statusByte 0#4 c = statusByte 0x9#4 c ∧
    0xA0#8 ||| statusByte 0#4 c = statusByte 0xA#4 c ∧ 0xB0#8 ||| statusByte 0#4 c = statusByte 0xB#4 c ∧
    0xC0#8 ||| statusByte 0#4 c = statusByte 0xC#4 c ∧ 0xD0#8 ||| statusByte 0#4 c = statusByte 0xD#4 c ∧
    0xE0#8 ||| statusByte 0#4 c = statusByte 0xE#4 c :=
  ⟨statusByte_or 0x8#4 c, statusByte_or 0x9#4 c, statusByte_or 0xA#4 c, statusByte_or 0xB#4 c,
    statusByte_or 0xC#4 c, statusByte_or 0xD#4 c, statusByte_or 0xE#4 c⟩

/-- The encoder's bytes of a decoded message are its wire bytes. -/
theorem bytes_widen (m : Msg) : m.widen.bytes = m.wire := by
  cases m with
  | channelVoice c v =>
    cases v <;> simp only [Message.widen, Voice.widen, Message.bytes, Voice.bytes, kind_or_channel c] <;> rfl
  | channelMode c n v =>
    simp only [Message.widen, Message.bytes, kind_or_channel c]
    rfl
  | systemCommon k => cases k <;> rfl
  | systemRealtime k => rfl
  | systemExclusive id payload terminated =>
    simp [Message.wire, Message.widen, Message.bytes, Message.status, Message.data, Message.closing]

/-! ## The decoded messages that can be encoded -/

/-- The shape of id and payload that the accumulator keeps (R20, R132). -/
def SysExShape (id payload : List Data7) : Prop :=
  id.length ≤ idNeed id ∧ (payload = [] ∨ id.length = idNeed id)

/-- A decoded message that `Valid` admits: of its checks (R192) only those of the controller and of the id
shape can fail, since the fields are in range. -/
def Message.Sendable : Msg → Prop
  | .channelVoice _ (.controlChange n _) => n.toNat ≤ 119
  | .channelMode _ n _ => 120 ≤ n.toNat
  | .systemExclusive id payload _ => SysExShape id payload
  | .channelVoice _ (.noteOff _ _) | .channelVoice _ (.noteOn _ _) | .channelVoice _ (.polyPressure _ _)
  | .channelVoice _ (.programChange _) | .channelVoice _ (.channelPressure _)
  | .channelVoice _ (.pitchBend _ _) | .systemCommon _ | .systemRealtime _ => True

theorem sendable_systemCommon (k : Common Data7) : Message.Sendable (.systemCommon k) := trivial
theorem sendable_systemRealtime (k : Realtime) : Message.Sendable (.systemRealtime k) := trivial
theorem sendable_systemExclusive {id payload : List Data7} (h : SysExShape id payload) (terminated : Bool) :
    Message.Sendable (.systemExclusive id payload terminated) := h

/-- The shape of the zero-length SysEx. -/
theorem sysExShape_nil : SysExShape [] [] := ⟨by decide, .inl rfl⟩

theorem dataByte_eq_zero_iff (d : Data7) : dataByte d = 0x00#8 ↔ d = 0x00#7 :=
  ⟨fun h => dataByte_injective (w := 0x00#7) h, fun h => h ▸ rfl⟩

/-- The encoder's test of the shape is the accumulator's form (R192, R132). -/
theorem idShapeOk_map_dataByte (id payload : List Data7) :
    idShapeOk (id.map dataByte) (payload.map dataByte) = true ↔ SysExShape id payload := by
  match id with
  | [] => simp [idShapeOk, SysExShape, idNeed]
  | [d] | [d, _] | [d, _, _] | d :: _ :: _ :: _ :: _ =>
    by_cases hd : d = 0x00#7 <;> simp [idShapeOk, SysExShape, idNeed, hd, dataByte_eq_zero_iff]

theorem valid_widen_iff (m : Msg) : m.widen.valid = true ↔ m.Sendable := by
  cases m with
  | channelVoice c v =>
    cases v <;> simp [Message.widen, Voice.widen, Message.valid, Voice.valid, Message.Sendable, controller_le_119]
  | channelMode c n v => simp [Message.widen, Message.valid, Message.Sendable, controller_ge_120]
  | systemCommon k => cases k <;> simp [Message.widen, Common.widen, Message.valid, Common.valid, Message.Sendable]
  | systemRealtime k => simp [Message.widen, Message.valid, Message.Sendable]
  | systemExclusive id payload terminated =>
    simp [Message.widen, Message.valid, Message.Sendable, ← idShapeOk_map_dataByte]

theorem encodeMessage_widen {m : Msg} (h : m.Sendable) : encodeMessage m.widen = .ok m.wire :=
  (encodeMessage_ok_iff _ _).mpr ⟨(valid_widen_iff m).mpr h, (bytes_widen m).symm⟩

theorem encodeMessage_widen_err {m : Msg} (h : ¬ m.Sendable) : encodeMessage m.widen = .err .valueOutOfRange :=
  (encodeMessage_err_iff _).mpr (Bool.eq_false_of_not_eq_true (mt (valid_widen_iff m).mp h))

/-- The encoder's answer to a message that is sendable under the condition `P` only. -/
theorem encodeMessage_widen_ite {m : Msg} {P : Prop} [Decidable P] (h : m.Sendable ↔ P) :
    encodeMessage m.widen = if P then .ok m.wire else .err .valueOutOfRange := by
  split
  · exact encodeMessage_widen (h.mpr ‹_›)
  · exact encodeMessage_widen_err (mt h.mp ‹_›)

/-! ## The port's messages as decoded messages -/

/-- The data fields of a voice in 7 bits. -/
def Voice.narrow : Voice Byte → Voice Data7
  | .noteOff a b => .noteOff (dataOf a) (dataOf b)
  | .noteOn a b => .noteOn (dataOf a) (dataOf b)
  | .polyPressure a b => .polyPressure (dataOf a) (dataOf b)
  | .controlChange a b => .controlChange (dataOf a) (dataOf b)
  | .programChange a => .programChange (dataOf a)
  | .channelPressure a => .channelPressure (dataOf a)
  | .pitchBend a b => .pitchBend (dataOf a) (dataOf b)

/-- The data fields of a System Common message in 7 bits. -/
def Common.narrow : Common Byte → Common Data7
  | .mtcQuarterFrame a => .mtcQuarterFrame (dataOf a)
  | .songPositionPointer a b => .songPositionPointer (dataOf a) (dataOf b)
  | .songSelect a => .songSelect (dataOf a)
  | .tuneRequest => .tuneRequest

/-- The fields of a message in the widths the decoder builds it with; `widen` undoes it on a valid message. -/
def Message.narrow : PortMsg → Msg
  | .channelVoice c v => .channelVoice (channelOf c) v.narrow
  | .channelMode c n v => .channelMode (channelOf c) (dataOf n) (dataOf v)
  | .systemCommon k => .systemCommon k.narrow
  | .systemRealtime k => .systemRealtime k
  | .systemExclusive id payload terminated => .systemExclusive (id.map dataOf) (payload.map dataOf) terminated

theorem dataByte_dataOf_of_inRange {b : Byte} (h : dataInRange b = true) : dataByte (dataOf b) = b := by
  obtain ⟨v, rfl⟩ := (dataInRange_iff b).mp h
  rw [dataOf_dataByte]

theorem statusByte_channelOf_of_inRange {b : Byte} (h : channelInRange b = true) :
    statusByte 0#4 (channelOf b) = b := by
  obtain ⟨c, rfl⟩ := (channelInRange_iff b).mp h
  rw [channelOf_statusByte]

theorem map_dataByte_dataOf {l : List Byte} (h : l.all dataInRange = true) :
    (l.map dataOf).map dataByte = l := by
  obtain ⟨k, rfl⟩ := (all_dataInRange_iff l).mp h
  simp

theorem dataInRange_of_le_119 {b : Byte} (h : b ≤ 119#8) : dataInRange b = true :=
  decide_eq_true (show b.toNat ≤ 127 from Nat.le_trans (show b.toNat ≤ 119 from h) (by decide))

theorem Voice.widen_narrow {v : Voice Byte} (h : v.valid = true) : v.narrow.widen = v := by
  cases v <;>
    simp_all [Voice.valid, Voice.narrow, Voice.widen, dataByte_dataOf_of_inRange, dataInRange_of_le_119]

theorem Common.widen_narrow {k : Common Byte} (h : k.valid = true) : k.narrow.widen = k := by
  cases k <;> simp_all [Common.valid, Common.narrow, Common.widen, dataByte_dataOf_of_inRange]

/-- A valid message is a decoded message, with the same fields (R191, R192). -/
theorem widen_narrow {m : PortMsg} (h : m.valid = true) : m.narrow.widen = m := by
  cases m <;>
    simp_all [Message.valid, Message.narrow, Message.widen, Voice.widen_narrow, Common.widen_narrow,
      dataByte_dataOf_of_inRange, statusByte_channelOf_of_inRange, map_dataByte_dataOf, -List.map_map]

/-- What is encoded is a sendable decoded message, as its wire bytes. -/
theorem encodeMessage_ok_cases {m : PortMsg} {bytes : List Byte} (h : encodeMessage m = .ok bytes) :
    ∃ m' : Msg, m'.widen = m ∧ m'.Sendable ∧ bytes = m'.wire := by
  obtain ⟨hvalid, rfl⟩ := (encodeMessage_ok_iff m bytes).mp h
  have hwiden := widen_narrow hvalid
  refine ⟨m.narrow, hwiden, (valid_widen_iff _).mp (hwiden.symm ▸ hvalid), ?_⟩
  rw [← bytes_widen, hwiden]

/-! ## The encoded bytes -/

/-- Settles O38: the wire bytes of each kind; only a Control Change and a Channel Mode message have a
condition on a field in range, the side of 119/120 their controller is on. -/
theorem channelMessagesEncode : Obligations.ChannelMessagesEncode := by
  intro c a b ch d1 d2
  exact ⟨encodeMessage_widen (m := .channelVoice c (.noteOff a b)) trivial,
    encodeMessage_widen (m := .channelVoice c (.noteOn a b)) trivial,
    encodeMessage_widen (m := .channelVoice c (.polyPressure a b)) trivial,
    encodeMessage_widen_ite (m := .channelVoice c (.controlChange a b)) Iff.rfl,
    encodeMessage_widen_ite (m := .channelMode c a b) Iff.rfl,
    encodeMessage_widen (m := .channelVoice c (.programChange a)) trivial,
    encodeMessage_widen (m := .channelVoice c (.channelPressure a)) trivial,
    encodeMessage_widen (m := .channelVoice c (.pitchBend a b)) trivial⟩

/-- Settles O39: the wire bytes of each kind, without a condition. -/
theorem systemMessagesEncode : Obligations.SystemMessagesEncode := by
  intro a b d1 d2
  exact ⟨encodeMessage_widen (sendable_systemCommon (.mtcQuarterFrame a)),
    encodeMessage_widen (sendable_systemCommon (.songPositionPointer a b)),
    encodeMessage_widen (sendable_systemCommon (.songSelect a)),
    encodeMessage_widen (sendable_systemCommon .tuneRequest),
    encodeMessage_widen (sendable_systemRealtime .clock),
    encodeMessage_widen (sendable_systemRealtime .start),
    encodeMessage_widen (sendable_systemRealtime .continueMsg),
    encodeMessage_widen (sendable_systemRealtime .stop),
    encodeMessage_widen (sendable_systemRealtime .activeSensing),
    encodeMessage_widen (sendable_systemRealtime .reset)⟩

/-- Settles O40: each of the written shapes is the accumulator's form, and the bytes are those of `bytes_widen`
whatever `terminated` says. -/
theorem sysExEncodesClosed : Obligations.SysExEncodesClosed := by
  intro id payload terminated wire hshape
  have hsend : SysExShape id payload := by
    obtain ⟨rfl, rfl⟩ | ⟨d, rfl, hd⟩ | ⟨d, rfl, rfl⟩ | ⟨d, e, rfl⟩ := hshape
    · exact sysExShape_nil
    · obtain hd | rfl := hd
      · simp [SysExShape, idNeed, hd]
      · exact ⟨by rcases idNeed_cases [d] with h | h <;> simp [h], .inl rfl⟩
    · exact ⟨by simp [idNeed], .inl rfl⟩
    · exact ⟨by simp [idNeed], .inr (by simp [idNeed])⟩
  have hbytes := bytes_widen (.systemExclusive id payload terminated)
  exact (encodeMessage_widen (sendable_systemExclusive hsend terminated)).trans (congrArg _ hbytes.symm)

/-- No data byte has bit 7 set. -/
theorem toNat_le_of_mem_map_dataByte {l : List Data7} {d : Byte} (h : d ∈ l.map dataByte) : d.toNat ≤ 0x7F := by
  obtain ⟨v, -, rfl⟩ := List.mem_map.mp h
  rw [dataByte_toNat]
  exact Nat.le_of_lt_succ v.isLt

theorem Voice.kind_mem (v : Voice Data7) :
    v.kind ∈ [0x8#4, 0x9#4, 0xA#4, 0xB#4, 0xC#4, 0xD#4, 0xE#4] := by
  cases v <;> simp [Voice.kind]

/-- The status of a channel message has bit 7 set and is not 0xF0 (R64). -/
theorem channelStatus_toNat {k : BitVec 4} (c : Channel)
    (hk : k ∈ [0x8#4, 0x9#4, 0xA#4, 0xB#4, 0xC#4, 0xD#4, 0xE#4]) :
    0x80 ≤ (statusByte k c).toNat ∧ statusByte k c ≠ 0xF0#8 := by
  obtain ⟨hlow, hhigh⟩ := statusByte_range k c hk
  refine ⟨hlow, fun h => ?_⟩
  rw [h] at hhigh
  exact absurd hhigh (by decide)

/-- The status has bit 7 set, and is 0xF0 for a SysEx only, which alone has a closing byte. -/
theorem Message.status_and_closing (m : Msg) :
    0x80 ≤ m.status.toNat ∧
      (m.status ≠ 0xF0#8 ∧ m.closing = [] ∨ m.status = 0xF0#8 ∧ m.closing = [0xF7#8]) := by
  cases m with
  | channelVoice c v =>
    obtain ⟨hlow, hne⟩ := channelStatus_toNat c v.kind_mem
    exact ⟨hlow, .inl ⟨hne, rfl⟩⟩
  | channelMode c n v =>
    obtain ⟨hlow, hne⟩ := channelStatus_toNat (k := 0xB#4) c (by simp)
    exact ⟨hlow, .inl ⟨hne, rfl⟩⟩
  | systemCommon k => cases k <;> simp [Message.status, Common.status, Message.closing]
  | systemRealtime k => cases k <;> simp [Message.status, Realtime.byte, Message.closing]
  | systemExclusive id payload terminated => simp [Message.status, Message.closing]

/-- Settles O42: the wire bytes are the status, data bytes, and the closing byte of a SysEx. -/
theorem encodedBytesBeginWithTheirStatus : Obligations.EncodedBytesBeginWithTheirStatus := by
  intro m bytes h
  obtain ⟨m', -, -, rfl⟩ := encodeMessage_ok_cases h
  obtain ⟨hstatus, ⟨hne, hclosing⟩ | ⟨heq, hclosing⟩⟩ := m'.status_and_closing
  · refine ⟨_, _, rfl, hstatus, fun _ d hd => ?_, fun heq => absurd heq hne⟩
    rw [hclosing, List.append_nil] at hd
    exact toNat_le_of_mem_map_dataByte hd
  · exact ⟨_, _, rfl, hstatus, fun hne => absurd heq hne,
      fun _ => ⟨_, congrArg _ hclosing, fun _ hd => toNat_le_of_mem_map_dataByte hd⟩⟩

/-! ## What the decoder emits -/

/-- The messages of the events, where they have one, can be encoded. -/
def AllSendable (evs : List Event) : Prop := ∀ e ∈ evs, ∀ d, e.msg = some d → d.msg.Sendable

theorem AllSendable.nil : AllSendable [] := by rintro e ⟨⟩

theorem AllSendable.append {evs new : List Event} (hevs : AllSendable evs) (hnew : AllSendable new) :
    AllSendable (evs ++ new) :=
  List.forall_mem_append.mpr ⟨hevs, hnew⟩

theorem AllSendable.error {evs : List Event} (hevs : AllSendable evs) (p : Sample) (k : ErrorKind) :
    AllSendable (evs ++ [errorEvent p k]) :=
  hevs.append (List.forall_mem_singleton.mpr (by rintro d ⟨⟩))

theorem AllSendable.message {evs : List Event} (hevs : AllSendable evs) (p : Sample) {m : Msg}
    (hm : m.Sendable) (a : Ann) (t : Time) (h : Option HwTime) (k : Option ErrorKind) :
    AllSendable (evs ++ [messageEvent p m a t h k]) :=
  hevs.append (List.forall_mem_singleton.mpr (by rintro d ⟨⟩; exact hm))

/-- `MkMsg` chooses between Control Change and Channel Mode by the side of 119/120 (R99). -/
theorem mkMsg_sendable {s : Byte} {a : Data7} {d : Option Data7} {m : Msg} (h : mkMsg s a d = some m) :
    m.Sendable := by
  unfold mkMsg at h
  repeat' split at h
  -- the nibble 0xB, the only one whose message has a condition
  case isFalse.isFalse.isFalse.isTrue.isTrue hmode =>
    obtain ⟨v, -, rfl⟩ := Option.map_eq_some_iff.mp h
    exact hmode
  case isFalse.isFalse.isFalse.isTrue.isFalse hmode =>
    obtain ⟨v, -, rfl⟩ := Option.map_eq_some_iff.mp h
    exact Nat.le_of_lt_succ (Nat.lt_of_not_le hmode)
  all_goals cases d <;> cases h <;> trivial

/-- An accumulator of the form of R20 holds a possible shape. -/
theorem SysExAcc.shape_of_wf {a : SysExAcc} (h : a.wf = true) : SysExShape a.id a.payload := by
  simp only [SysExAcc.wf, idComplete, Bool.and_eq_true, Bool.or_eq_true, decide_eq_true_eq, beq_iff_eq,
    List.isEmpty_iff] at h
  exact h.1

theorem DecoderState.sysExShape_of_ok {ds : DecoderState} {a : SysExAcc} (hok : ds.ok = true)
    (hq : ds.pending = .inSysEx a) : SysExShape a.id a.payload := by
  obtain ⟨r, q⟩ := ds
  cases hq
  exact SysExAcc.shape_of_wf ((DecoderState.ok_inSysEx_iff r a).mp hok).2

section
variable {p : Sample} {w w' : Work}

/-- The closing event's message is the SysEx in progress (R93). -/
theorem closingEvents_sendable (p : Sample) {ds : DecoderState} (hok : ds.ok = true) :
    AllSendable (closingEvents p ds.pending) := by
  cases hq : ds.pending with
  | idle => exact .nil
  | await _ => exact AllSendable.nil.error p _
  | inSysEx a =>
    rw [closingEvents]
    split
    · exact AllSendable.nil.error p _
    · exact AllSendable.nil.message p (sendable_systemExclusive (DecoderState.sysExShape_of_ok hok hq) _) _ _ _ _

theorem commonStatus_sendable (hok : w.ds.ok = true) (hw : AllSendable w.events) :
    AllSendable (commonStatus p w).events := by
  rw [commonStatus_eq]
  exact hw.append (closingEvents_sendable p hok)

theorem awaitData_sendable {q : Partial} {b : Data7} (h : awaitData q b p w = some w')
    (hw : AllSendable w.events) : AllSendable w'.events := by
  rw [awaitData] at h
  split at h
  · obtain ⟨m, hm, rfl⟩ := Option.map_eq_some_iff.mp h
    refine hw.message p ?_ _ _ _ _
    split at hm
    · exact mkMsg_sendable hm
    split at hm
    · cases hm
    · exact mkMsg_sendable hm
  · cases h
    exact hw

theorem runningData_sendable {s : Byte} {b : Data7} (h : runningData s b p w = some w')
    (hw : AllSendable w.events) : AllSendable w'.events := by
  rw [runningData] at h
  split at h
  · obtain ⟨m, hm, rfl⟩ := Option.map_eq_some_iff.mp h
    exact hw.message p (mkMsg_sendable hm) _ _ _ _
  · cases h
    exact hw
  · cases h

theorem sysExData_sendable (a : SysExAcc) (b : Data7) (hw : AllSendable w.events) :
    AllSendable (sysExData a b p w).events := by
  rw [sysExData]
  split
  · exact hw
  split
  · exact hw
  split
  · exact hw.error p _
  · exact hw

theorem dataStep_sendable {b : Data7} (h : dataStep b p w = some w') (hw : AllSendable w.events) :
    AllSendable w'.events := by
  rw [dataStep] at h
  split at h
  · cases h
    exact sysExData_sendable _ b hw
  · exact awaitData_sendable h hw
  split at h
  · exact runningData_sendable h hw
  · cases h
    exact hw.error p _

/-- EOX emits the SysEx in progress, or the zero-length one (R133, R134). -/
theorem handler_eox_sendable (h : handler .eox p w = some w') (hok : w.ds.ok = true)
    (hw : AllSendable w.events) : AllSendable w'.events := by
  cases hq : w.ds.pending with
  | inSysEx a =>
    cases (handler_eox_inSysEx hq).symm.trans h
    rw [eoxInSysEx_eq]
    refine hw.append ?_
    split
    · exact .nil
    · exact AllSendable.nil.message p (sendable_systemExclusive (DecoderState.sysExShape_of_ok hok hq) _) _ _ _ _
  | idle | await _ =>
    cases (handler_eox_unmatched (by simp [hq])).symm.trans h
    rw [unmatchedEox_eq]
    have hclosed := commonStatus_sendable (p := p) hok hw
    split
    · exact hclosed.message p (sendable_systemExclusive sysExShape_nil _) _ _ _ _
    · exact hclosed.error p _

/-- Every handler adds sendable messages only, from a `DS` as the rules leave it. -/
theorem handler_sendable {j : Instr} (h : handler j p w = some w') (hok : w.ds.ok = true)
    (hw : AllSendable w.events) : AllSendable w'.events := by
  cases j with
  | data b => exact dataStep_sendable h hw
  | eox => exact handler_eox_sendable h hok hw
  | sysexStart | mtcQuarterFrame | songPosition | songSelect =>
    cases h
    exact commonStatus_sendable hok hw
  | undefF4 | undefF5 =>
    cases h
    exact (commonStatus_sendable hok hw).error p _
  | tuneRequest =>
    cases h
    exact (commonStatus_sendable hok hw).message p (sendable_systemCommon _) _ _ _ _
  | undefF9 | undefFD =>
    cases h
    exact hw.error p _
  | clock | start | continueMsg | stop | activeSensing | reset =>
    cases h
    exact hw.message p (sendable_systemRealtime _) _ _ _ _
  | noteOff | noteOn | polyPressure | controlChange | channelMode | programChange | channelPressure
  | pitchBend =>
    cases h
    rw [channelStatus_eq]
    exact hw.append (closingEvents_sendable p hok)

end

/-- Settles O43: the events of the end state are those of the handler, whose messages are sendable. -/
theorem emittedMessagesCanBeEncoded : Obligations.EmittedMessagesCanBeEncoded := by
  intro s t x i i' j new e d hok hlive hexec ht he hd
  obtain ⟨w, hw, rfl⟩ := exec_next_of_live hlive hexec
  obtain ⟨-, rfl⟩ := State.stepped_injective hlive ht
  have hsend : AllSendable w.events := handler_sendable hw (State.ok_of_live hok hlive).1 .nil
  exact ⟨_, encodeMessage_widen (hsend e he d hd)⟩

/-! ## Feeding the bytes of a message -/

section
variable {p : Sample} {i : Instance} {evs : List Event}

/-- A byte's handler run on the stream's instance is what the byte does to the stream. -/
theorem serve_of_handler {b : Byte} {w : Work} (h : handler (decodeByte b none) p i.work = some w) :
    Stream.serve { inst := some i, events := evs } (p, b) =
      some { inst := some { ds := w.ds, cs := w.cs }, events := evs ++ w.events } := by
  simp [Stream.serve, h, Stream.deliver]

theorem serve_dataByte {v : Data7} {w : Work} (h : dataStep v p i.work = some w) :
    Stream.serve { inst := some i, events := evs } (p, dataByte v) =
      some { inst := some { ds := w.ds, cs := w.cs }, events := evs ++ w.events } :=
  serve_of_handler (by rwa [decodeByte_dataByte])

/-- A data byte that completes a message. -/
theorem serve_completing {v : Data7} {m : Msg} {t : Time} {h : Option HwTime}
    (hw : dataStep v p i.work = some (emit p m t h (i.work.setPending .idle))) :
    Stream.serve { inst := some i, events := evs } (p, dataByte v) =
      some { inst := some { ds := { i.ds with pending := .idle }, cs := (classify p.cfg m i.cs).2 }
             events := evs ++ [messageEvent p m (classify p.cfg m i.cs).1 t h none] } :=
  serve_dataByte hw

/-- The status byte disposes of the message in progress and then awaits `need` data bytes, its own sample
latched; running status is `r` from then on (R115, R144). -/
def Opens (status : Byte) (need : Nat) (r : Option Byte) : Prop :=
  ∀ p w, handler (decodeByte status none) p w =
    some { ds := { runningStatus := r, pending := .await (.first status need p.now p.hw) }
           cs := w.cs
           events := w.events ++ closingEvents p w.ds.pending }

theorem Opens.serve {status : Byte} {need : Nat} {r : Option Byte} (h : Opens status need r) :
    Stream.serve { inst := some i, events := evs } (p, status) =
      some { inst := some { ds := { runningStatus := r, pending := .await (.first status need p.now p.hw) }
                            cs := i.cs }
             events := evs ++ closingEvents p i.ds.pending } :=
  serve_of_handler (h p i.work)

end

/-- The status byte of a channel message opens it, with the byte's own `NeedOf` (R94, R115). -/
theorem opens_channelStatus {k : BitVec 4} (c : Channel) {need : Nat}
    (hk : k ∈ [0x8#4, 0x9#4, 0xA#4, 0xB#4, 0xC#4, 0xD#4, 0xE#4]) (hneed : needOf (statusByte k c) = some need) :
    Opens (statusByte k c) need (some (statusByte k c)) := by
  obtain ⟨j, hdecode, -, -, hclass, -⟩ := everyByteDecodesInItsClass (statusByte k c) []
  obtain ⟨rfl, -⟩ := decode_cons_eq_instr_iff.mp hdecode
  obtain ⟨b, need', hword, -, hneed', -, hrun⟩ := handler_channelStatus (hclass.mpr (statusByte_range k c hk))
  obtain rfl : b = statusByte k c := Option.some.inj (hword.symm.trans (decodeByte_isRowOf _ _).2)
  obtain rfl : need' = need := Option.some.inj (hneed'.symm.trans hneed)
  intro p w
  exact (hrun p w).trans (congrArg some (channelStatus_eq ..))

/-- The status byte of a System Common message with data opens it (R138 to R140, R144). -/
theorem opens_commonStatus {b : Byte} {need : Nat}
    (h : ∀ p w, handler (decodeByte b none) p w = some (enterAwait p b need (commonStatus p w))) :
    Opens b need none := by
  intro p w
  rw [h, commonStatus_eq]
  rfl

/-- Fed to a stream with an instance, the bytes give one event with the message `m`, in the step of the last
byte, stamped with the sample of the first, after the event that disposes of a message in progress; a
realtime message disposes of nothing and leaves `pending` alone (R210). -/
def Message.ReturnedBy (m : Msg) (bytes : List Byte) : Prop :=
  ∀ (items : List (Sample × Byte)) (first last : Sample × Byte) (i : Instance) (evs : List Event),
    items.map Prod.snd = bytes → items.head? = some first → items.getLast? = some last →
    (∀ it ∈ items, m.widen.payloadLength ≤ it.1.cfg.sysexMaxPayloadBytes) →
    ∃ (a : Ann) (i' : Instance),
      items.foldlM Stream.serve { inst := some i, events := evs } = some
        { inst := some i'
          events := evs ++ (if m.widen.isRealtime then [] else closingEvents first.1 i.ds.pending) ++
            [messageEvent last.1 m a first.1.now first.1.hw none] } ∧
      i'.ds.pending = if m.widen.isRealtime then i.ds.pending else .idle

theorem returnedBy_realtime (k : Realtime) : Message.ReturnedBy (.systemRealtime k) [k.byte] := by
  intro items first last i evs hbytes hfirst hlast _
  obtain ⟨⟨p, _⟩, rfl, rfl⟩ := List.map_eq_singleton_iff.mp hbytes
  obtain rfl := Option.some.inj hfirst
  obtain rfl : (p, k.byte) = last := Option.some.inj hlast
  refine ⟨.plain, i, ?_, rfl⟩
  rw [List.foldlM_cons, serve_realtime]
  simp [Message.widen, Message.isRealtime]

theorem serve_tuneRequest (p : Sample) (i : Instance) (evs : List Event) :
    Stream.serve { inst := some i, events := evs } (p, 0xF6#8) =
      some { inst := some { ds := { runningStatus := none, pending := .idle }, cs := i.cs }
             events := evs ++ closingEvents p i.ds.pending ++
               [messageEvent p (.systemCommon .tuneRequest) .plain p.now p.hw none] } := by
  refine (serve_of_handler rfl).trans ?_
  rw [emit_eq, commonStatus_work, List.append_assoc]
  rfl

theorem returnedBy_tuneRequest : Message.ReturnedBy (.systemCommon .tuneRequest) [0xF6#8] := by
  intro items first last i evs hbytes hfirst hlast _
  obtain ⟨⟨p, _⟩, rfl, rfl⟩ := List.map_eq_singleton_iff.mp hbytes
  obtain rfl := Option.some.inj hfirst
  obtain rfl : (p, 0xF6#8) = last := Option.some.inj hlast
  rw [List.foldlM_cons, serve_tuneRequest]
  exact ⟨_, _, rfl, rfl⟩

section
variable {m : Msg} {status : Byte} {r : Option Byte} {a b : Data7}

theorem returnedBy_oneDataByte (hm : m.widen.isRealtime = false) (hopens : Opens status 1 r)
    (hmk : mkMsg status a none = some m) : m.ReturnedBy [status, dataByte a] := by
  intro items first last i evs hbytes hfirst hlast _
  obtain ⟨⟨p0, _⟩, _, rfl, rfl, hdata⟩ := List.map_eq_cons_iff.mp hbytes
  obtain ⟨⟨p1, _⟩, rfl, rfl⟩ := List.map_eq_singleton_iff.mp hdata
  obtain rfl := Option.some.inj hfirst
  obtain rfl : (p1, dataByte a) = last := Option.some.inj hlast
  rw [hm, List.foldlM_cons, hopens.serve, Option.bind_eq_bind, Option.bind_some, List.foldlM_cons,
    serve_completing ((dataStep_await rfl).trans (awaitData_first_one hmk))]
  exact ⟨_, _, rfl, rfl⟩

theorem returnedBy_twoDataBytes (hm : m.widen.isRealtime = false) (hopens : Opens status 2 r)
    (hmk : mkMsg status a (some b) = some m) : m.ReturnedBy [status, dataByte a, dataByte b] := by
  intro items first last i evs hbytes hfirst hlast _
  obtain ⟨⟨p0, _⟩, _, rfl, rfl, hdata⟩ := List.map_eq_cons_iff.mp hbytes
  obtain ⟨⟨p1, _⟩, _, rfl, rfl, hsecond⟩ := List.map_eq_cons_iff.mp hdata
  obtain ⟨⟨p2, _⟩, rfl, rfl⟩ := List.map_eq_singleton_iff.mp hsecond
  obtain rfl := Option.some.inj hfirst
  obtain rfl : (p2, dataByte b) = last := Option.some.inj hlast
  rw [hm, List.foldlM_cons, hopens.serve, Option.bind_eq_bind, Option.bind_some, List.foldlM_cons,
    serve_firstOfTwo, Option.bind_eq_bind, Option.bind_some, List.foldlM_cons,
    serve_completing ((dataStep_await rfl).trans (awaitData_second hmk))]
  exact ⟨_, _, rfl, rfl⟩

end

/-! ## Feeding the bytes of a SysEx -/

/-- What comes before the last bytes of an id that is not too long is incomplete: the first byte already says how
many the id needs (R132). -/
theorem length_lt_idNeed_of_append {pre tail : List Data7} {d : Data7}
    (h : (pre ++ d :: tail).length ≤ idNeed (pre ++ d :: tail)) : pre.length < idNeed pre := by
  cases pre with
  | nil => decide
  | cons c pre =>
    have hneed : idNeed (c :: pre ++ d :: tail) = idNeed (c :: pre) := rfl
    rw [hneed, List.length_append, List.length_cons (a := d)] at h
    omega

/-- A stream inside a SysEx with the accumulator `a`. -/
def Stream.collecting (cs : ClassifierState) (evs : List Event) (a : SysExAcc) : Stream :=
  { inst := some { ds := { runningStatus := none, pending := .inSysEx a }, cs := cs }, events := evs }

section
variable {cs : ClassifierState} {evs : List Event}

theorem serve_sysexStart (p : Sample) (i : Instance) :
    Stream.serve { inst := some i, events := evs } (p, 0xF0#8) =
      some (.collecting i.cs (evs ++ closingEvents p i.ds.pending)
        { id := [], payload := [], ovf := false, t0 := p.now, h0 := p.hw }) := by
  refine (serve_of_handler rfl).trans ?_
  rw [commonStatus_work]
  rfl

/-- A data byte that is stored. -/
theorem serve_collecting {a a' : SysExAcc} {d : Data7} {p : Sample}
    (h : ∀ w, sysExData a d p w = w.setPending (.inSysEx a')) :
    Stream.serve (.collecting cs evs a) (p, dataByte d) = some (.collecting cs evs a') := by
  refine (serve_dataByte ((dataStep_inSysEx rfl).trans (congrArg some (h _)))).trans ?_
  rw [Work.setPending_events, Instance.work_events, List.append_nil]
  rfl

/-- The id bytes are stored one by one (R131). -/
theorem serve_idBytes (tail : List Data7) : ∀ (a : SysExAcc) (items : List (Sample × Byte)), a.ovf = false →
    items.map Prod.snd = tail.map dataByte → (a.id ++ tail).length ≤ idNeed (a.id ++ tail) →
    items.foldlM Stream.serve (.collecting cs evs a) =
      some (.collecting cs evs { a with id := a.id ++ tail }) := by
  induction tail with
  | nil =>
    intro a items _ hbytes _
    obtain rfl := List.map_eq_nil_iff.mp hbytes
    rw [List.append_nil]
    rfl
  | cons d tail ih =>
    intro a items hovf hbytes hlen
    obtain ⟨⟨p, _⟩, items, rfl, rfl, htail⟩ := List.map_eq_cons_iff.mp hbytes
    rw [List.foldlM_cons, serve_collecting fun w => sysExData_id hovf (length_lt_idNeed_of_append hlen)]
    rw [List.append_cons a.id d tail] at hlen ⊢
    exact ih { a with id := a.id ++ [d] } items hovf htail hlen

/-- The payload bytes are stored one by one while there is room (R131). -/
theorem serve_payloadBytes (tail : List Data7) : ∀ (a : SysExAcc) (items : List (Sample × Byte)),
    a.ovf = false → a.id.length = idNeed a.id → items.map Prod.snd = tail.map dataByte →
    (∀ it ∈ items, (a.payload ++ tail).length ≤ it.1.cfg.sysexMaxPayloadBytes) →
    items.foldlM Stream.serve (.collecting cs evs a) =
      some (.collecting cs evs { a with payload := a.payload ++ tail }) := by
  induction tail with
  | nil =>
    intro a items _ _ hbytes _
    obtain rfl := List.map_eq_nil_iff.mp hbytes
    rw [List.append_nil]
    rfl
  | cons d tail ih =>
    intro a items hovf hid hbytes hcap
    obtain ⟨⟨p, _⟩, items, rfl, rfl, htail⟩ := List.map_eq_cons_iff.mp hbytes
    obtain ⟨hroom, hcap⟩ := List.forall_mem_cons.mp hcap
    have hroom : a.payload.length < p.cfg.sysexMaxPayloadBytes := Nat.lt_of_lt_of_le (by simp) hroom
    rw [List.foldlM_cons, serve_collecting fun w => sysExData_payload hovf hid.not_lt hroom]
    rw [List.append_cons a.payload d tail] at hcap ⊢
    exact ih { a with payload := a.payload ++ [d] } items hovf hid htail hcap

/-- The id and then the payload of a possible shape are stored (R131). -/
theorem serve_sysExBytes {id payload : List Data7} (hshape : SysExShape id payload) (t : Time)
    (h : Option HwTime) {items : List (Sample × Byte)}
    (hbytes : items.map Prod.snd = (id ++ payload).map dataByte)
    (hcap : ∀ it ∈ items, payload.length ≤ it.1.cfg.sysexMaxPayloadBytes) :
    items.foldlM Stream.serve (.collecting cs evs ⟨[], [], false, t, h⟩) =
      some (.collecting cs evs ⟨id, payload, false, t, h⟩) := by
  rw [List.map_append] at hbytes
  obtain ⟨ids, payloads, rfl, hids, hpayloads⟩ := List.map_eq_append_iff.mp hbytes
  have hid := serve_idBytes (cs := cs) (evs := evs) id ⟨[], [], false, t, h⟩ ids rfl hids hshape.1
  rw [List.foldlM_append, hid]
  obtain rfl | hcomplete := hshape.2
  · obtain rfl := List.map_eq_nil_iff.mp hpayloads
    rfl
  · exact serve_payloadBytes payload ⟨id, [], false, t, h⟩ payloads rfl hcomplete hpayloads
      fun it hit => hcap it (List.mem_append_right ids hit)

/-- EOX delivers the SysEx, stamped with the latch (R133). -/
theorem serve_eox {a : SysExAcc} (p : Sample) (hovf : a.ovf = false) :
    Stream.serve (.collecting cs evs a) (p, 0xF7#8) =
      some { inst := some { ds := { runningStatus := none, pending := .idle }, cs := cs }
             events := evs ++ [messageEvent p (.systemExclusive a.id a.payload true)
               { Ann.plain with universal := universalOf a.id a.payload } a.t0 a.h0 none] } := by
  refine (serve_of_handler (w := eoxInSysEx p a (Instance.work _)) rfl).trans ?_
  rw [eoxInSysEx_eq, hovf]
  rfl

end

theorem returnedBy_sysEx {id payload : List Data7} (hshape : SysExShape id payload) :
    Message.ReturnedBy (.systemExclusive id payload true)
      (0xF0#8 :: ((id ++ payload).map dataByte ++ [0xF7#8])) := by
  intro items first last i evs hbytes hfirst hlast hcap
  obtain ⟨⟨p0, _⟩, _, rfl, rfl, hrest⟩ := List.map_eq_cons_iff.mp hbytes
  obtain ⟨data, _, rfl, hdata, hend⟩ := List.map_eq_append_iff.mp hrest
  obtain ⟨⟨pEnd, _⟩, rfl, rfl⟩ := List.map_eq_singleton_iff.mp hend
  obtain rfl := Option.some.inj hfirst
  have hlast' := List.getLast?_concat (l := (p0, 0xF0#8) :: data) (a := (pEnd, 0xF7#8))
  obtain rfl : (pEnd, 0xF7#8) = last := Option.some.inj (hlast'.symm.trans hlast)
  have hcap : ∀ it ∈ data, payload.length ≤ it.1.cfg.sysexMaxPayloadBytes := fun it hit => by
    simpa [Message.payloadLength, Message.widen] using hcap it (by simp [hit])
  rw [List.foldlM_cons, serve_sysexStart, Option.bind_eq_bind, Option.bind_some, List.foldlM_append,
    serve_sysExBytes hshape p0.now p0.hw hdata hcap, Option.bind_eq_bind, Option.bind_some, List.foldlM_cons,
    serve_eox pEnd rfl]
  exact ⟨_, _, rfl, rfl⟩

/-- The bytes of every message that can be encoded return it, a SysEx with `terminated` set (R210). -/
theorem returnedBy_wire {m : Msg} (hsend : m.Sendable) (hclosed : m.widen.closed = true) :
    m.ReturnedBy m.wire := by
  cases m with
  | channelVoice c v =>
    have hopens {need : Nat} := opens_channelStatus c (need := need) v.kind_mem
    cases v with
    | noteOff a b => exact returnedBy_twoDataBytes rfl (hopens (needOf_noteOff c)) (mkMsg_noteOff c a b)
    | noteOn a b => exact returnedBy_twoDataBytes rfl (hopens (needOf_noteOn c)) (mkMsg_noteOn c a b)
    | polyPressure a b =>
      exact returnedBy_twoDataBytes rfl (hopens (needOf_polyPressure c)) (mkMsg_polyPressure c a b)
    | controlChange a b =>
      have hmode : ¬ 120#7 ≤ a := Nat.not_le.mpr (Nat.lt_succ_of_le hsend)
      exact returnedBy_twoDataBytes rfl (hopens (needOf_control c))
        ((mkMsg_control c a b).trans (congrArg some (if_neg hmode)))
    | programChange a =>
      exact returnedBy_oneDataByte rfl (hopens (needOf_programChange c)) (mkMsg_programChange c a none)
    | channelPressure a =>
      exact returnedBy_oneDataByte rfl (hopens (needOf_channelPressure c)) (mkMsg_channelPressure c a none)
    | pitchBend a b => exact returnedBy_twoDataBytes rfl (hopens (needOf_pitchBend c)) (mkMsg_pitchBend c a b)
  | channelMode c n v =>
    exact returnedBy_twoDataBytes rfl (opens_channelStatus c (by simp) (needOf_control c))
      ((mkMsg_control c n v).trans (congrArg some (if_pos hsend)))
  | systemCommon k =>
    cases k with
    | mtcQuarterFrame a =>
      exact returnedBy_oneDataByte rfl (opens_commonStatus fun _ _ => rfl) (mkMsg_mtcQuarterFrame a none)
    | songPositionPointer a b =>
      exact returnedBy_twoDataBytes rfl (opens_commonStatus fun _ _ => rfl) (mkMsg_songPosition a b)
    | songSelect a =>
      exact returnedBy_oneDataByte rfl (opens_commonStatus fun _ _ => rfl) (mkMsg_songSelect a none)
    | tuneRequest => exact returnedBy_tuneRequest
  | systemRealtime k => exact returnedBy_realtime k
  | systemExclusive id payload terminated =>
    obtain rfl : terminated = true := hclosed
    exact returnedBy_sysEx hsend

/-- Settles O44: the encoded bytes are the wire bytes of a decoded message, which return it, and feeding them
one a step serves them in order. -/
theorem decodeOfEncodedMessageReturnsIt : Obligations.DecodeOfEncodedMessageReturnsIt := by
  rintro s k ⟨_, evs⟩ i m bytes items rest first last hx rfl hencode hclosed hbytes hfirst hlast hitems hcalls
  obtain ⟨m', rfl, hsend, rfl⟩ := encodeMessage_ok_cases hencode
  obtain ⟨a, i', hserve, hpending⟩ :=
    returnedBy_wire hsend hclosed items first last i evs hbytes hfirst hlast fun it hit => (hitems it hit).2
  obtain ⟨t, hrun, hrest, ht⟩ := runSteps_feedCalls items (fun it hit => (hitems it hit).1) hcalls hx hserve
  exact ⟨t, hrun, hrest, m', a, i', rfl, hpending, ht⟩

end Sys2Proof.Machine
end

section
/-! PROOFS. The statements of spec/60_exceptions.md: what the host's calls leave unchanged. -/

namespace Sys2Proof.Machine

/-- A state without a call has nothing to fetch (R250; log 3). -/
theorem fetch_of_calls_nil {s : State} (h : s.calls = []) : fetch s = .quiet := by
  simp only [fetch, h]

/-- Settles O6: without a call the fetch is quiet, and a quiet step answers the same state. -/
theorem stepWithoutCallKeepsTheState : Obligations.StepWithoutCallKeepsTheState := by
  intro s hcalls
  rw [step, fetch_of_calls_nil hcalls]

end Sys2Proof.Machine
end

section
/-! PROOFS. The statements of spec/70_reset_and_hazards.md: `open`, `resync` and `close` (R261 to R263), and the
calls on a stream without an instance (R277). -/

namespace Sys2Proof.Machine

/-- A command step is `runCommand`, on the state whose call is taken. -/
theorem step_command {s : State} {c : Command} {rest : List Call} (h : s.calls = .command c :: rest) :
    step s = runCommand c { s with calls := rest } := by
  simp only [step, fetch, h]

/-- A command on an existing instance replaces it and delivers no event. -/
theorem onInstance_live {s : State} {k : Nat} {x : Stream} {i : Instance} (f : Instance → Option Instance)
    (hx : s.streams[k]? = some x) (hi : x.inst = some i) :
    onInstance k f s = .next { s with streams := s.streams.set k { x with inst := f i } } := by
  simp only [onInstance, hx, hi]

/-- Stream `k` has no instance: none was opened there, or it was closed (R277). -/
def State.Dead (s : State) (k : Nat) : Prop := ∀ x, s.streams[k]? = some x → x.inst = none

theorem State.Dead.not_live {s : State} (h : s.Dead s.port.stream) (x : Stream) (i : Instance) : ¬ s.Live x i := by
  rintro ⟨hx, hi⟩
  exact Option.some_ne_none i (hi.symm.trans (h x hx))

/-- Without an instance there is no command either (R277; log 8). -/
theorem onInstance_dead {s : State} {k : Nat} (f : Instance → Option Instance) (h : s.Dead k) :
    onInstance k f s = .fault .noInstance := by
  cases hx : s.streams[k]? with
  | none => simp only [onInstance, hx]
  | some x => simp only [onInstance, hx, h x hx]

/-- An instruction without an instance is the fault `noInstance` (R277; log 8). -/
theorem exec_dead (j : Instr) {s : State} (h : ∀ x i, ¬ s.Live x i) : exec j s = .fault .noInstance := by
  rw [exec_eq_runFeed, runFeed_dead _ h]

/-- Settles O11: every instruction runs on the addressed stream, and there is no instance to run it on. -/
theorem feedWithoutInstanceStops : Obligations.FeedWithoutInstanceStops := fun _ j h => exec_dead j h

/-- Settles O53: the step is `openStream`, whose `Instance.fresh` is the stated instance. -/
theorem openAddsAnEmptyInstance : Obligations.OpenAddsAnEmptyInstance := fun _ _ hcalls => step_command hcalls

/-- Settles O54: the step puts `Instance.fresh` in the place of the instance, whatever that holds. -/
theorem resyncEmptiesTheInstance : Obligations.ResyncEmptiesTheInstance := by
  intro s k x i rest hcalls hx hi
  rw [step_command hcalls]
  exact onInstance_live (s := { s with calls := rest }) _ hx hi

/-- A `feed` or `resync` on a stream without an instance has no step (R277; log 8). -/
theorem step_dead {s : State} {k : Nat} {c : Call} {rest : List Call} (hdead : s.Dead k)
    (hcalls : s.calls = c :: rest) (hc : c = .command (.resync k) ∨ ∃ p b, c = .feed p b ∧ p.stream = k) :
    step s = .fault .noInstance := by
  obtain rfl | ⟨p, b, rfl, rfl⟩ := hc
  · rw [step_command hcalls]
    exact onInstance_dead (s := { s with calls := rest }) _ hdead
  · rw [step_feed hcalls]
    exact exec_dead _ (State.Dead.not_live (s := s.accept p rest) hdead)

/-- Settles O55: the step takes the instance away, and the closed stream answers no `feed` or `resync`. -/
theorem closeEndsTheInstance : Obligations.CloseEndsTheInstance := by
  intro s k x i rest hcalls hx hi t
  have hclose : step s = .next t := by
    rw [step_command hcalls]
    exact onInstance_live (s := { s with calls := rest }) _ hx hi
  have hdead : t.Dead k := by
    intro y hy
    obtain ⟨-, rfl⟩ := List.getElem?_eq_some_iff.mp hy
    exact congrArg Stream.inst (List.getElem_set_self _)
  exact ⟨hclose, fun c hc => step_dead (s := { t with calls := [c] }) hdead rfl hc⟩

end Sys2Proof.Machine
end
